-- ==== Sys2Proof/Word.lean ====
section
/-! DEFINITION. The word types of the core (R10): bytes, 64-bit lanes, the 32-bit command word. -/

namespace Sys2Proof

/-- "A byte is an unsigned 8-bit integer" (R10). -/
abbrev Byte := BitVec 8

/-- "A lane is an unsigned 64-bit integer. Bit 0 is its least significant bit" (R10). -/
abbrev Lane := BitVec 64

/-- The lane array `A[0..24]`: always exactly 25 lanes (R20, R22). -/
abbrev Lanes := Vector Lane 25

/-- The 32-bit word of R62 (the command word) and of R28 (the QUERY word). -/
abbrev Word32 := BitVec 32

end Sys2Proof
end

