-- ==== Sys2Proof/Config.lean ====
section
/-! DEFINITION. What is fixed when an instance is built (R3, R25, D1), and the value the model names where reset
leaves the lanes unspecified. -/

namespace Sys2Proof

/-- `VARIANT`, the build parameter of an instance: which of the two digests it computes (R3, R25). -/
inductive Variant where
  | keccak256
  | keccak512
  deriving DecidableEq, Repr

/-- The variant of the instance `State.reset` describes. DESIGN CHOICE (log entry 1): the spec takes `VARIANT` as a
parameter of the instance (D1); `State.resetOf` gives the reset state of either. -/
def Config.builtVariant : Variant := .keccak256

/-- What `State.reset` names for every lane. DESIGN CHOICE (log entry 2): R32 leaves the lanes unspecified after
reset (any value); `State.resetWith` gives the reset state with any lanes, and no command reads a lane before INIT
zeroes it (R32, R140). -/
def Config.resetLanes : Lanes := Vector.replicate 25 0#64

end Sys2Proof
end

