-- ==== Sys2Proof/Machine/Params.lean ====
section
/-! DEFINITION. The parameters of R6 and R7. -/

namespace Sys2Proof

/-- `NLANES` (R6). -/
def nLanes : Nat := 25

/-- `LANE_BITS` (R6). -/
def laneBits : Nat := 64

/-- `STATE_BYTES`, 25 x 8 (R6). -/
def stateBytes : Nat := 200

/-- `NROUNDS`: "applies exactly 24 rounds" (R6). -/
def nRounds : Nat := 24

/-- `OUT_BYTES` (R7). -/
def Variant.outBytes : Variant → Nat
  | .keccak256 => 32
  | .keccak512 => 64

/-- `R_BYTES`, 136 or 72 (R7; the formula `200 − 2×output_len_bytes` is stated in Laws/Params.lean). -/
def Variant.rBytes : Variant → Nat
  | .keccak256 => 136
  | .keccak512 => 72

/-- `R_LANES = R_BYTES / 8` (R7). -/
def Variant.rLanes : Variant → Nat
  | .keccak256 => 17
  | .keccak512 => 9

/-- `OUT_LANES = OUT_BYTES / 8` (R7). -/
def Variant.outLanes : Variant → Nat
  | .keccak256 => 4
  | .keccak512 => 8

/-- `CAP_BYTES = 200 − R_BYTES` (R7). -/
def Variant.capBytes (v : Variant) : Nat := stateBytes - v.rBytes

/-- The `VARIANT` code of the QUERY word (R7, R25). -/
def Variant.code : Variant → Nat
  | .keccak256 => 0
  | .keccak512 => 1

end Sys2Proof
end

