-- ==== Sys2Proof/Syntax.lean ====
section
/-! DEFINITION. The commands of the opcode map (R65), one constructor per row of spec/opcode_table.json. -/

namespace Sys2Proof

/-- A command with its payload. "The payload is the byte sequence `D[0 .. LEN−1]` in the order the bytes arrive" and
"no command has an immediate, a register number or an address operand" (R69), so the payload is the only operand and
LEN is its length. The four commands whose LEN must be 0 carry none. -/
inductive Instr where
  /-- INIT (R132): start a new message. -/
  | init
  /-- ABSORB (R133): absorb one full block. -/
  | absorb (block : List Byte)
  /-- FINAL (R134): absorb the last, short block with padding. -/
  | final (msg : List Byte)
  /-- SQUEEZE (R135): read the digest. -/
  | squeeze
  /-- ABORT (R136): the host reports that its input source failed. -/
  | abort
  /-- QUERY (R137): read the status word. -/
  | query
  deriving DecidableEq, Repr

/-- The payload bytes of a command (R69). -/
def Instr.payload : Instr → List Byte
  | .init => []
  | .absorb block => block
  | .final msg => msg
  | .squeeze => []
  | .abort => []
  | .query => []

end Sys2Proof
end

