-- ==== Sys2Proof/Machine/Operands.lean ====
section
/-! DEFINITION. The one operand form (R69): a payload of LEN bytes, and the LEN each command admits (R65, R66). -/

namespace Sys2Proof.Machine

/-- LEN, "an unsigned 8-bit byte count", of a command with this payload (R69). -/
def payloadLen (payload : List Byte) : Nat := payload.length

/-- "exactly `R_BYTES`" (R65, R66). -/
def absorbLenAdmitted (v : Variant) (payload : List Byte) : Bool := payloadLen payload == v.rBytes

/-- "`0 ≤ LEN ≤ R_BYTES − 1`" (R65, R66). -/
def finalLenAdmitted (v : Variant) (payload : List Byte) : Bool := payloadLen payload ≤ v.rBytes - 1

end Sys2Proof.Machine
end

