-- ==== Sys2Proof/WellFormed.lean ====
section
/-! DEFINITION. Which commands an instance admits: the LEN column of R65, which depends on `VARIANT` and on nothing
else (R66). -/

namespace Sys2Proof

/-- The LEN a command must have (R65, R66): exactly `R_BYTES` for ABSORB, at most `R_BYTES − 1` for FINAL. -/
def Instr.wellFormed (v : Variant) : Instr → Bool
  | .init => true
  | .absorb block => block.length == v.rBytes
  | .final msg => msg.length ≤ v.rBytes - 1
  | .squeeze => true
  | .abort => true
  | .query => true

/-- The payload fits the 8-bit LEN field (R62), so the command has an encoding at all. -/
def Instr.encodable (i : Instr) : Bool := i.payload.length ≤ 255

end Sys2Proof
end

