-- ==== Sys2Proof/Decode.lean ====
section
/-! DEFINITION. The command word and the decoder (R61 to R70), and after it the encoder and the assembler's words. -/

namespace Sys2Proof

/-! ### The command word -/

/-- `CW = c0 | c1 << 8 | c2 << 16 | c3 << 24` (R63). -/
def commandWord (c0 c1 c2 c3 : Byte) : Word32 :=
  c0.setWidth 32 ||| c1.setWidth 32 <<< 8 ||| c2.setWidth 32 <<< 16 ||| c3.setWidth 32 <<< 24

/-- OP, bits `[7:0]` (R62). -/
def opField (cw : Word32) : Byte := cw.extractLsb' 0 8

/-- LEN, bits `[15:8]`, "an unsigned 8-bit byte count, zero-extended" (R62, R69). -/
def lenField (cw : Word32) : Nat := (cw.extractLsb' 8 8).toNat

/-- RSVD, bits `[31:16]` (R62). -/
def rsvdField (cw : Word32) : BitVec 16 := cw.extractLsb' 16 16

/-! ### The decoder -/

/-- Why a command word has no row of the opcode table (R68). All three are answered ERR_ILLEGAL, so the host cannot
tell them apart; the names are the model's (log entry 10). -/
inductive IllegalWord where
  /-- "A nonzero RSVD field makes any word illegal." -/
  | reservedBits
  /-- "OP values 0x00 and 0x07 to 0xFF are reserved." -/
  | reservedOp
  /-- A LEN other than 0 for INIT, SQUEEZE, ABORT or QUERY. -/
  | lenNotZero
  deriving DecidableEq, Repr

/-- One row of spec/opcode_table.json (R67): a word is the row's when `cw & mask = pattern`. -/
structure OpcodeRow where
  pattern : Word32
  mask : Word32
  build : List Byte → Instr

/-- The opcode table, with ABSORB in its variant-independent form: "match 0x00000002, mask 0xFFFF00FF, with the
further condition `CW[15:8] = R_BYTES`" (R67). That further condition and FINAL's depend on `VARIANT` (R66) and are
checked where the command executes (`Instr.wellFormed`; log entry 9). -/
def opcodeTable : List OpcodeRow := [
  ⟨0x00000001, 0xFFFFFFFF, fun _ => .init⟩,
  ⟨0x00000002, 0xFFFF00FF, .absorb⟩,
  ⟨0x00000003, 0xFFFF00FF, .final⟩,
  ⟨0x00000004, 0xFFFFFFFF, fun _ => .squeeze⟩,
  ⟨0x00000005, 0xFFFFFFFF, fun _ => .abort⟩,
  ⟨0x00000006, 0xFFFFFFFF, fun _ => .query⟩]

/-- The name under which a word that is no row's is rejected. -/
def whyIllegal (cw : Word32) : IllegalWord :=
  if rsvdField cw ≠ 0 then .reservedBits
  else if opField cw = 0 ∨ 6 < (opField cw).toNat then .reservedOp
  else .lenNotZero

/-- The command a word with its payload stands for: "every other 32-bit word is illegal" (R67). -/
def decodeWord (cw : Word32) (payload : List Byte) : Except IllegalWord Instr :=
  match opcodeTable.find? (fun row => cw &&& row.mask == row.pattern) with
  | some row => .ok (row.build payload)
  | none => .error (whyIllegal cw)

/-- What the bytes at the command port hold. -/
inductive Decoded where
  /-- The request's last byte has not arrived (R61, R186). -/
  | incomplete
  /-- A complete request whose word is no row's; `rest` are the bytes after its payload (R64). -/
  | illegal (why : IllegalWord) (rest : List Byte)
  /-- A complete request for a command; `rest` are the bytes after its payload. -/
  | command (i : Instr) (rest : List Byte)
  deriving DecidableEq, Repr

/-- Decode the bytes of a request: four word bytes, then exactly LEN payload bytes "whatever OP is and whether or not
the command turns out legal" (R61, R64, R70). Total on any bytes. -/
def decode : List Byte → Decoded
  | c0 :: c1 :: c2 :: c3 :: bytes =>
    let cw := commandWord c0 c1 c2 c3
    let n := lenField cw
    if bytes.length < n then .incomplete
    else
      match decodeWord cw (bytes.take n) with
      | .ok i => .command i (bytes.drop n)
      | .error why => .illegal why (bytes.drop n)
  | _ => .incomplete

/-- "A decoder tells a request's length from its command word alone: `4 + CW[15:8]` bytes" (R70). -/
def requestLength (cw : Word32) : Nat := 4 + lenField cw

/-! ### The encoder -/

/-- The OP of a command (R65). -/
def Instr.op : Instr → Byte
  | .init => 0x01
  | .absorb _ => 0x02
  | .final _ => 0x03
  | .squeeze => 0x04
  | .abort => 0x05
  | .query => 0x06

/-- The command word of a command (R62, R65): OP in `[7:0]`, LEN in `[15:8]`, RSVD 0. -/
def Instr.word (i : Instr) : Word32 :=
  i.op.setWidth 32 ||| (BitVec.ofNat 8 i.payload.length).setWidth 32 <<< 8

/-- A 32-bit word's four bytes, least significant first (R44, R63). -/
def wordBytes (w : Word32) : List Byte :=
  [w.extractLsb' 0 8, w.extractLsb' 8 8, w.extractLsb' 16 8, w.extractLsb' 24 8]

/-- The request bytes of a command: its word, then its payload (R61). -/
def encode (i : Instr) : List Byte := wordBytes i.word ++ i.payload

/-! ### The opcode table's numbering of bits -/

/-- Byte `k` of an instruction numbered as spec/opcode_table.json numbers it, the bits from `nbits` up being 0. -/
def tableByte (nbits w k : Nat) : Byte := BitVec.ofNat 8 ((w % 2 ^ nbits) >>> (8 * k))

/-- The request bytes of a table word: the four word bytes (R63), then its LEN payload bytes (R64), which are 0 where
the table gives them no bits. -/
def tableRequest (nbits w : Nat) : List Byte :=
  (List.range (4 + (tableByte nbits w 1).toNat)).map (tableByte nbits w)

/-- The instruction the decoder reads from a table word. -/
def decodeTableWord (nbits w : Nat) : Option Instr :=
  match decode (tableRequest nbits w) with
  | .command i _ => some i
  | .illegal _ _ => none
  | .incomplete => none

end Sys2Proof
end

