-- ==== Sys2Proof/Machine/State.lean ====
section
/-! DEFINITION. The state of the core between two atomic steps (R48), its stop reasons, and reset (R32, R180). -/

namespace Sys2Proof.Machine

/-- `PHASE` (R24): "All four values are legal; no value is reserved." Its 2-bit code is `Phase.code`. -/
inductive Phase where
  /-- No message in progress. -/
  | idle
  /-- A message is being absorbed. -/
  | absorb
  /-- The final block has been absorbed and permuted; the digest is available. -/
  | done
  /-- The host reported an input I/O failure; no digest will be given. -/
  | aborted
  deriving DecidableEq, Repr

/-- The reasons the machine stops with a fault: none. "The core has no trap mechanism" (R165) and "the permutation,
the padding and the codec cannot fail" (R164); an error is the status byte of a response, after which "the core
simply takes the next command word". No meaning raises a fault (log entry 12; safe: there is no constructor). -/
inductive Fault where
  deriving DecidableEq, Repr

/-- The reasons the model gives an instruction no meaning. -/
inductive Refusal where
  /-- Raised by an arm of `exec` that has no meaning yet, and by nothing else; no arm raises it today. Safe. -/
  | notModelled (mnemonic : String)
  deriving DecidableEq, Repr

/-- Everything the spec gives one instance between two steps, and the host's side of its two ports. The hidden state
of R30 "exist[s] only while one command executes", so it is `Machine.Engine`'s (log entry 3). -/
structure State where
  /-- The lane array `A[0..24]` (R20). -/
  lanes : Lanes
  /-- `PHASE` (R24). -/
  phase : Phase
  /-- `VARIANT`, a constant of the instance: "No command writes it" (R25). -/
  variant : Variant
  /-- The port parser: "the bytes of the command word and payload received so far for the transaction in progress";
  "It is empty between transactions" (R31). -/
  parser : List Byte
  /-- The command port: bytes the host has sent and flow control still holds (R60, R183), in order. -/
  cmdPort : List Byte
  /-- The response port: bytes of the current response not yet delivered (R32, R60), in order. -/
  respPort : List Byte
  /-- The host's flow control on the response port (R60): does it take bytes now? An input (log entry 6). -/
  respReady : Bool
  /-- The response bytes delivered to the host so far: "The observation of a run is the sequence of response bytes"
  (R15). The model's own field (log entry 6). -/
  received : List Byte
  deriving DecidableEq, Repr

/-- The machine right after reset, with the lanes R32 leaves unspecified given by the argument: `PHASE` is IDLE and
both ports are empty (R32, R180). -/
def State.resetWith (v : Variant) (A : Lanes) : State where
  lanes := A
  phase := .idle
  variant := v
  parser := []
  cmdPort := []
  respPort := []
  respReady := true
  received := []

/-- The reset state of an instance of either variant, the lanes being those the model names (log entry 2). -/
def State.resetOf (v : Variant) : State := State.resetWith v Config.resetLanes

/-- The machine right after reset (R32). -/
def State.reset : State := State.resetOf Config.builtVariant

end Sys2Proof.Machine
end

