-- ==== Sys2Proof/Machine/Flags.lean ====
section
/-! DEFINITION. The core "has no flags, condition codes or predicates" (R27): what stands in their place is the status
byte of a response (R160), the code of PHASE (R24), and the QUERY word (R28). -/

namespace Sys2Proof.Machine

/-- The status of a response (R160). -/
inductive Status where
  /-- The command was legal in the current phase and took effect. -/
  | ok
  /-- `Legal(CW)` is false. -/
  | errIllegal
  /-- A legal command its current phase does not admit. -/
  | errSequence
  /-- SQUEEZE after ABORT. -/
  | errIo
  deriving DecidableEq, Repr

/-- The status byte (R160): "The core never sends status values 0x04 to 0xFF." -/
def Status.code : Status → Byte
  | .ok => 0x00
  | .errIllegal => 0x01
  | .errSequence => 0x02
  | .errIo => 0x03

/-- The 2-bit value of `PHASE` (R24). -/
def Phase.code : Phase → BitVec 2
  | .idle => 0
  | .absorb => 1
  | .done => 2
  | .aborted => 3

/-- `Q = PHASE | VARIANT << 8 | R_BYTES << 16 | OUT_BYTES << 24` (R137, R28). -/
def queryWord (p : Phase) (v : Variant) : Word32 :=
  p.code.setWidth 32 ||| BitVec.ofNat 32 v.code <<< 8 ||| BitVec.ofNat 32 v.rBytes <<< 16 |||
    BitVec.ofNat 32 v.outBytes <<< 24

/-- The QUERY word of a state: "read-only, live" in PHASE, constant elsewhere (R28). -/
def State.queryWord (s : State) : Word32 := Machine.queryWord s.phase s.variant

end Sys2Proof.Machine
end

