-- ==== Sys2Proof/Machine/LaneCodec.lean ====
section
/-! DEFINITION. The state byte space (R40 to R46) and the lane codec (R110 to R115), little-endian throughout
(R43, R114). -/

namespace Sys2Proof.Machine

/-! ### Lane and bytes -/

/-- `le64(b0, ..., b7)`: the first byte is the least significant (R110). -/
def le64 (b0 b1 b2 b3 b4 b5 b6 b7 : Byte) : Lane :=
  b0.setWidth 64 ||| b1.setWidth 64 <<< 8 ||| b2.setWidth 64 <<< 16 ||| b3.setWidth 64 <<< 24 |||
  b4.setWidth 64 <<< 32 ||| b5.setWidth 64 <<< 40 ||| b6.setWidth 64 <<< 48 ||| b7.setWidth 64 <<< 56

/-- `v[8k+7 : 8k]`, byte `k` of a lane (R10, R111). -/
def laneByte (v : Lane) (k : Nat) : Byte := v.extractLsb' (8 * k) 8

/-- `bytes64(v)`, the 8 bytes of a lane, least significant first (R111). -/
def bytes64 (v : Lane) : List Byte :=
  [laneByte v 0, laneByte v 1, laneByte v 2, laneByte v 3, laneByte v 4, laneByte v 5, laneByte v 6, laneByte v 7]

/-! ### The state byte space `SB` -/

/-- `SB[b]`: bits `[8*(b % 8) + 7 : 8*(b % 8)]` of lane `A[b div 8]` (R41). -/
def sbRead (A : Lanes) (b : Fin 200) : Byte := laneByte (A[b.val / 8]'(by omega)) (b.val % 8)

/-- Write 8 bits of a lane: byte `k` becomes `x`, the other bits stay (R41). -/
def setLaneByte (v : Lane) (k : Nat) (x : Byte) : Lane :=
  (v &&& ~~~(0xFF#64 <<< (8 * k))) ||| x.setWidth 64 <<< (8 * k)

/-- "A write to a byte of `SB` is a write to those 8 bits of the lane" (R41). -/
def sbWrite (A : Lanes) (b : Fin 200) (x : Byte) : Lanes :=
  A.set (b.val / 8) (setLaneByte (A[b.val / 8]'(by omega)) (b.val % 8) x) (by omega)

/-- The sum of `MemRead` over the first `n` bytes from `addr`; it stops at the end of the byte space, which
`memRead` does not reach. -/
def memReadFrom (A : Lanes) (addr : Nat) : Nat → Nat
  | 0 => 0
  | n + 1 =>
    memReadFrom A addr n |||
      (if h : addr + n < 200 then (sbRead A ⟨addr + n, h⟩).toNat <<< (8 * n) else 0)

/-- `MemRead(addr, n)` "with `0 ≤ addr` and `addr + n ≤ 200`" (R42): the unsigned `8n`-bit value, byte `addr` least
significant. No other address exists (R40), so there it has no value (log entry 15). -/
def memRead (A : Lanes) (addr n : Nat) : Option Nat :=
  if addr + n ≤ 200 then some (memReadFrom A addr n) else none

/-- `SB[addr+k] <- v[8k+7:8k]` for `k = 0 to n−1`, stopping at the end of the byte space. -/
def memWriteFrom (A : Lanes) (addr v : Nat) : Nat → Lanes
  | 0 => A
  | n + 1 =>
    if h : addr + n < 200 then sbWrite (memWriteFrom A addr v n) ⟨addr + n, h⟩ (BitVec.ofNat 8 (v >>> (8 * n)))
    else memWriteFrom A addr v n

/-- `MemWrite(addr, n, v)` (R42), in the same range. -/
def memWrite (A : Lanes) (addr n v : Nat) : Option Lanes :=
  if addr + n ≤ 200 then some (memWriteFrom A addr v n) else none

/-! ### The codec -/

/-- `le64(P[8l], ..., P[8l+7])`, the lane value of the `l`-th 8-byte group of a block. A block always has `R_BYTES`
bytes (R112), so no group of a rate lane runs past its end (log entry 18). -/
def blockLane (P : List Byte) (l : Nat) : Lane :=
  le64 (P.getD (8 * l) 0) (P.getD (8 * l + 1) 0) (P.getD (8 * l + 2) 0) (P.getD (8 * l + 3) 0)
    (P.getD (8 * l + 4) 0) (P.getD (8 * l + 5) 0) (P.getD (8 * l + 6) 0) (P.getD (8 * l + 7) 0)

/-- AbsorbXor (R112): the block's groups go into lanes `0 .. R_LANES−1`; the capacity lanes are not touched. -/
def absorbXor (v : Variant) (A : Lanes) (P : List Byte) : Lanes :=
  Vector.ofFn fun l : Fin 25 => if l.val < v.rLanes then A[l] ^^^ blockLane P l.val else A[l]

/-- Extract (R113): the bytes of the first `OUT_LANES` lanes, in order. -/
def extract (v : Variant) (A : Lanes) : List Byte := (A.toList.take v.outLanes).flatMap bytes64

/-! ### Padding -/

/-- `Pad(n, D)` with `n` the length of `D` (R131): a zero buffer of `R_BYTES` bytes, the message bytes copied to its
front, `0x01` after them, and `0x80` or-ed into the last byte. -/
def pad (v : Variant) (D : List Byte) : List Byte :=
  let P := D ++ List.replicate (v.rBytes - D.length) 0x00#8
  let P := P.set D.length 0x01#8
  P.set (v.rBytes - 1) (P.getD (v.rBytes - 1) 0 ||| 0x80#8)

end Sys2Proof.Machine
end

