-- ==== Sys2Proof/Machine/Tables.lean ====
section
/-! DEFINITION. The three read-only constant tables (R29): `RC` (R82), `ROT` (R83) and `PI` (R84), and the generator
formulas of R85 they are checked against. -/

namespace Sys2Proof.Machine

/-- The rows of R82's table: `RC[r]` and `RC[r + 12]` for `r = 0 to 11`. -/
def roundConstantRows : Vector (Lane × Lane) 12 := #v[
  (0x0000000000000001, 0x000000008000808B),
  (0x0000000000008082, 0x800000000000008B),
  (0x800000000000808A, 0x8000000000008089),
  (0x8000000080008000, 0x8000000000008003),
  (0x000000000000808B, 0x8000000000008002),
  (0x0000000080000001, 0x8000000000000080),
  (0x8000000080008081, 0x000000000000800A),
  (0x8000000000008009, 0x800000008000000A),
  (0x000000000000008A, 0x8000000080008081),
  (0x0000000000000088, 0x8000000000008080),
  (0x0000000080008009, 0x0000000080000001),
  (0x000000008000000A, 0x8000000080008008)]

/-- `RC[r]`, the round constants (R82): the left half of the table holds rounds 0 to 11, the right half 12 to 23. -/
def RC : Vector Lane 24 :=
  Vector.ofFn fun r : Fin 24 =>
    if r.val < 12 then (roundConstantRows[r.val % 12]'(Nat.mod_lt _ (by decide))).1
    else (roundConstantRows[r.val % 12]'(Nat.mod_lt _ (by decide))).2

/-- `ROT[k]`, the rotation offset of step `k` of the Rho+Pi walk (R83). -/
def ROT : Vector Nat 24 := #v[
  1, 3, 6, 10, 15, 21, 28, 36, 45, 55, 2, 14,
  27, 41, 56, 8, 25, 43, 62, 18, 39, 61, 20, 44]

/-- `PI[k]`, the lane step `k` of the Rho+Pi walk writes (R84). -/
def PI : Vector (Fin 25) 24 := #v[
  10, 7, 11, 17, 18, 3, 5, 16, 8, 21, 24, 4,
  15, 23, 19, 13, 12, 2, 20, 14, 22, 9, 6, 1]

/-! ### The closed form of Rho+Pi (R88) -/

/-- The destination lane of each source lane (R88); "Lane 0 goes to lane 0". -/
def rhoPiDest : Vector (Fin 25) 25 := #v[
  0, 10, 20, 5, 15, 16, 1, 11, 21, 6, 7, 17, 2,
  12, 22, 23, 8, 18, 3, 13, 14, 24, 9, 19, 4]

/-- The rotation of each source lane (R88); lane 0 "with rotation 0". -/
def rhoPiRotation : Vector Nat 25 := #v[
  0, 1, 62, 28, 27, 36, 44, 6, 55, 20, 3, 10, 43,
  25, 39, 41, 45, 15, 21, 8, 18, 2, 61, 56, 14]

/-! ### The generator formulas (R85) -/

/-- `((k+1)(k+2)/2) % 64` (R85). -/
def rotFormula (k : Nat) : Nat := (k + 1) * (k + 2) / 2 % 64

/-- One step of the walk, `(x, y) -> (y, (2x + 3y) % 5)` (R85). -/
def walkStep (p : Nat × Nat) : Nat × Nat := (p.2, (2 * p.1 + 3 * p.2) % 5)

/-- The point of the walk from `(1, 0)` after `n` steps (R85). -/
def walkPoint : Nat → Nat × Nat
  | 0 => (1, 0)
  | n + 1 => walkStep (walkPoint n)

/-- The lane index `x + 5y` of the `(k+1)`-th point of the walk (R85, R21). -/
def piFormula (k : Nat) : Nat := (walkPoint (k + 1)).1 + 5 * (walkPoint (k + 1)).2

/-- One step of the LFSR with polynomial `x^8 + x^6 + x^5 + x^4 + 1` (R85): multiply by `x` and reduce. -/
def lfsrStep (s : Byte) : Byte :=
  if s.msb then (s <<< 1) ^^^ 0x71#8 else s <<< 1

/-- The LFSR's state at time `t`, started at 1. -/
def lfsrState : Nat → Byte
  | 0 => 1#8
  | t + 1 => lfsrStep (lfsrState t)

/-- `rc(t)`, the LFSR's output bit, with `rc(0) = 1` (R85). -/
def rcBit (t : Nat) : Bool := (lfsrState t).getLsbD 0

/-- `RC[r]` has bit `2^j − 1` equal to `rc(j + 7r)` for `j = 0 to 6`, and every other bit 0 (R85). -/
def rcFormula (r : Nat) : Lane :=
  (List.range 7).foldl
    (fun acc j => if rcBit (j + 7 * r) then acc ||| (1#64 <<< (2 ^ j - 1)) else acc) 0#64

end Sys2Proof.Machine
end

