-- ==== Sys2Proof/Machine/Permutation.lean ====
section
/-! DEFINITION. The permutation engine (R80 to R93), each step computing its 25 output lanes from its 25 input lanes,
which "meets [R92] by construction". The pseudocode run statement by statement is Machine/Sequential.lean. -/

namespace Sys2Proof.Machine

/-- `rotl64(v, n)` for `0 ≤ n ≤ 63` (R11): `((v << n) | (v >> (64 − n))) & 0xFFFFFFFFFFFFFFFF`; at `n = 0` the right
shift by 64 gives 0, and the value is `v`. -/
def rotl64 (v : Lane) (n : Nat) : Lane := v <<< n ||| v >>> (64 - n)

/-- The lane index `x + 5y` of `(x, y)` (R21). -/
def laneIndex (x y : Fin 5) : Fin 25 := ⟨x.val + 5 * y.val, by omega⟩

/-- The column `x = i % 5` of a lane (R21). -/
def laneColumn (i : Fin 25) : Fin 5 := ⟨i.val % 5, by omega⟩

/-- The row `y = i div 5` of a lane (R21). -/
def laneRow (i : Fin 25) : Fin 5 := ⟨i.val / 5, by omega⟩

/-- The column parity `C[x]`, the exclusive or of the five lanes of column `x` (R86). -/
def columnParity (A : Lanes) (x : Fin 5) : Lane :=
  A[x.val] ^^^ A[x.val + 5] ^^^ A[x.val + 10] ^^^ A[x.val + 15] ^^^ A[x.val + 20]

/-- Theta (R86): `D = C[(x+4) % 5] ^ rotl64(C[(x+1) % 5], 1)` goes into every lane of column `x`; "All five parities
`C[x]` are computed from the step's input, before any lane changes." -/
def theta (A : Lanes) : Lanes :=
  let C : Vector Lane 5 := Vector.ofFn (columnParity A)
  Vector.ofFn fun i : Fin 25 =>
    A[i] ^^^ (C[(i.val + 4) % 5]'(Nat.mod_lt _ (by decide)) ^^^
      rotl64 (C[(i.val + 1) % 5]'(Nat.mod_lt _ (by decide))) 1)

/-- One step of the Rho+Pi walk (R87): the wanderer is rotated and stored in lane `PI[k]`, whose old, unrotated value
becomes the next wanderer (C2). -/
def rhoPiStep (w : Lanes × Lane) (k : Fin 24) : Lanes × Lane :=
  (w.1.set PI[k].val (rotl64 w.2 ROT[k]), w.1[PI[k]])

/-- RhoPi (R87): lane 1 seeds the wanderer, then 24 steps in order. -/
def rhoPi (A : Lanes) : Lanes := ((List.finRange 24).foldl rhoPiStep (A, A[1])).1

/-- Chi (R89): `A[5y+i] <- b[i] ^ (~b[(i+1)%5] & b[(i+2)%5])`, with `b` the row before the step. -/
def chi (A : Lanes) : Lanes :=
  Vector.ofFn fun i : Fin 25 =>
    A[i] ^^^ (~~~(A[5 * (i.val / 5) + (i.val + 1) % 5]'(by omega)) &&&
      A[5 * (i.val / 5) + (i.val + 2) % 5]'(by omega))

/-- Iota (R90): `A[0] <- A[0] ^ RC[r]`. -/
def iota (A : Lanes) (r : Fin 24) : Lanes := A.set 0 (A[0] ^^^ RC[r])

/-- One round: Theta, RhoPi, Chi, Iota "in strict order" (R81). -/
def keccakRound (A : Lanes) (r : Fin 24) : Lanes := iota (chi (rhoPi (theta A))) r

/-- KeccakF (R80): the rounds 0 to 23 in index order, each once. Irreducible, so that no proof about a command unrolls the
24 rounds by accident; the kernel evaluates it all the same. -/
@[irreducible] def keccakF (A : Lanes) : Lanes := (List.finRange 24).foldl keccakRound A

end Sys2Proof.Machine
end

