-- ==== Sys2Proof/Machine/Ops.lean ====
section
/-! DEFINITION. The named operations over the state that the commands share: lanes, PHASE, the response, the error
response, and the absorption of a block. -/

namespace Sys2Proof.Machine

/-! ### Registers -/

/-- `A[i]` (R12). -/
def State.lane (s : State) (i : Fin 25) : Lane := s.lanes[i]

/-- `A' <- F(A)`: "replaces all 25 lanes at once" (R13). -/
def State.setLanes (s : State) (A : Lanes) : State := { s with lanes := A }

/-- `PHASE <- p` (R12). -/
def State.setPhase (s : State) (p : Phase) : State := { s with phase := p }

/-- 25 zero lanes: "Initialize State to all-zero lanes" (R132). -/
def zeroLanes : Lanes := Vector.replicate 25 0#64

/-! ### The response -/

/-- `respond(s, bytes)` "sends status byte `s`, then the listed bytes, on the response port" (R12, R61). -/
def State.respond (s : State) (st : Status) (data : List Byte) : State :=
  { s with respPort := s.respPort ++ st.code :: data }

/-- `raise <Status>`: "the core sends the error response named by `<Status>` and writes no architectural state" (R12,
R161); "An error response carries no data bytes" (R160). This is all the core has for an exception: nothing is saved,
no mode changes, there is no vector and no return (R165). -/
def State.raise (s : State) (st : Status) : State := s.respond st []

/-! ### Absorption -/

/-- `AbsorbXor(A, P); KeccakF(A)` (R133, R134). -/
def State.absorbBlock (s : State) (P : List Byte) : State :=
  s.setLanes (keccakF (absorbXor s.variant s.lanes P))

end Sys2Proof.Machine
end

