-- ==== Sys2Proof/Machine/Sponge.lean ====
section
/-! DEFINITION. The meanings of the six commands (R132 to R137). Each runs on the state after its request has been taken,
checks LEN where it depends on VARIANT (R66), then PHASE (the order of R162), and responds. -/

namespace Sys2Proof.Machine

/-- INIT (R132): zero every lane and enter ABSORB, in any phase. -/
def execInit (s : State) : Host.Outcome State Fault Refusal :=
  .next (((s.setLanes zeroLanes).setPhase .absorb).respond .ok [])

/-- ABSORB (R133): absorb one full block; PHASE stays ABSORB. ERR_ILLEGAL on a LEN other than `R_BYTES`, whatever the
phase (R162); ERR_SEQUENCE outside ABSORB. -/
def execAbsorb (block : List Byte) (s : State) : Host.Outcome State Fault Refusal :=
  if absorbLenAdmitted s.variant block then
    match s.phase with
    | .absorb => .next ((s.absorbBlock block).respond .ok [])
    | .idle => .next (s.raise .errSequence)
    | .done => .next (s.raise .errSequence)
    | .aborted => .next (s.raise .errSequence)
  else .next (s.raise .errIllegal)

/-- FINAL (R134): absorb the padded last block and enter DONE. -/
def execFinal (msg : List Byte) (s : State) : Host.Outcome State Fault Refusal :=
  if finalLenAdmitted s.variant msg then
    match s.phase with
    | .absorb => .next (((s.absorbBlock (pad s.variant msg)).setPhase .done).respond .ok [])
    | .idle => .next (s.raise .errSequence)
    | .done => .next (s.raise .errSequence)
    | .aborted => .next (s.raise .errSequence)
  else .next (s.raise .errIllegal)

/-- SQUEEZE (R135): the digest in DONE, which changes neither the lanes nor PHASE; ERR_IO in ABORTED, ERR_SEQUENCE in
IDLE and ABSORB. -/
def execSqueeze (s : State) : Host.Outcome State Fault Refusal :=
  match s.phase with
  | .aborted => .next (s.raise .errIo)
  | .idle => .next (s.raise .errSequence)
  | .absorb => .next (s.raise .errSequence)
  | .done => .next (s.respond .ok (extract s.variant s.lanes))

/-- ABORT (R136): enter ABORTED; the lanes are unchanged. ERR_SEQUENCE outside ABSORB. -/
def execAbort (s : State) : Host.Outcome State Fault Refusal :=
  match s.phase with
  | .absorb => .next ((s.setPhase .aborted).respond .ok [])
  | .idle => .next (s.raise .errSequence)
  | .done => .next (s.raise .errSequence)
  | .aborted => .next (s.raise .errSequence)

/-- QUERY (R137): the QUERY word, least significant byte first; it changes nothing and is legal in every phase. -/
def execQuery (s : State) : Host.Outcome State Fault Refusal :=
  .next (s.respond .ok (wordBytes s.queryWord))

end Sys2Proof.Machine
end

