-- ==== Sys2Proof/Machine/Dispatch.lean ====
section
/-! DEFINITION. One arm per command. -/

namespace Sys2Proof.Machine

def exec (i : Instr) (s : State) : Host.Outcome State Fault Refusal :=
  match i with
  | .init => Sys2Proof.Machine.execInit s
  | .absorb block => Sys2Proof.Machine.execAbsorb block s
  | .final msg => Sys2Proof.Machine.execFinal msg s
  | .squeeze => Sys2Proof.Machine.execSqueeze s
  | .abort => Sys2Proof.Machine.execAbort s
  | .query => Sys2Proof.Machine.execQuery s

end Sys2Proof.Machine
end

