-- ==== Sys2Proof/Machine/Ports.lean ====
section
/-! DEFINITION. The two byte-serial ports (R60, R61): taking a request, delivering a response, and what the host can do to
the core (R15, R180). -/

namespace Sys2Proof.Machine

/-! ### The core's side -/

/-- The bytes of the transaction in progress: those the parser holds, then those the command port offers. -/
def State.requestBytes (s : State) : List Byte := s.parser ++ s.cmdPort

/-- Take every byte offered into the parser: the request is not complete yet, so "the command has had no effect" and
the core waits (R31, R186). -/
def State.gather (s : State) : State := { s with parser := s.requestBytes, cmdPort := [] }

/-- Take the request's bytes: the parser "is empty between transactions" (R31), and the command port keeps the bytes
after the request. -/
def State.take (s : State) (rest : List Byte) : State := { s with parser := [], cmdPort := rest }

/-- One step of the response port: its first byte goes to the host, if the host takes bytes now (R60). -/
def State.deliver (s : State) : State :=
  match s.respPort with
  | [] => s
  | b :: rest =>
    if s.respReady then { s with respPort := rest, received := s.received ++ [b] } else s

/-- "The core takes the first byte of a new command word only after it has delivered the last byte of the previous
command's response" (R60): the core's flow control on the command port. -/
def State.cmdReady (s : State) : Bool := s.respPort.isEmpty

/-! ### The host's side -/

/-- The host sends bytes; flow control holds those the core does not take yet, "the bytes are neither lost nor
misread" (R60, R183). -/
def State.hostSend (s : State) (bytes : List Byte) : State := { s with cmdPort := s.cmdPort ++ bytes }

/-- The host starts or stops taking response bytes (R60, R185). -/
def State.hostReady (s : State) (ready : Bool) : State := { s with respReady := ready }

/-- The host applies reset, "at any time" (R180): `PHASE = IDLE`, both ports empty, and the lanes unspecified, so any
lanes `A`. "A transaction in progress when reset arrives is abandoned: its command has no effect, and no byte of its
response is sent after reset." `VARIANT` is the built constant (R32). -/
def State.hostReset (s : State) (A : Lanes) : State :=
  { s with lanes := A, phase := .idle, parser := [], cmdPort := [], respPort := [] }

/-! ### The next request -/

/-- Put a request in front of the command port, with the previous response delivered and the parser empty. -/
def State.offerRequest (s : State) (request : List Byte) : State :=
  { s with
    parser := []
    cmdPort := request ++ s.cmdPort
    respPort := []
    received := s.received ++ s.respPort }

end Sys2Proof.Machine
end

