-- ==== Sys2Proof/Machine/Step.lean ====
section
/-! DEFINITION. One step of the core. -/

namespace Sys2Proof.Machine

/-- While a response is pending the core delivers it; otherwise it takes a request and, once the request's last byte
has arrived, executes it as one atomic transition (R48, R60, R61). A word that is no command is answered ERR_ILLEGAL
(R66); a request that is not complete changes nothing the host can see (R186). -/
def step (s : State) : Host.Outcome State Fault Refusal :=
  match s.respPort with
  | _ :: _ => .next s.deliver
  | [] =>
    match decode s.requestBytes with
    | .incomplete => .next s.gather
    | .illegal _ rest => .next ((s.take rest).raise .errIllegal)
    | .command i rest => exec i (s.take rest)

/-- `s` with the request of a table word next at the command port. -/
def State.withFetchWord (s : State) (nbits w : Nat) : State := s.offerRequest (tableRequest nbits w)

end Sys2Proof.Machine
end

