-- ==== Sys2Proof/Machine/Message.lean ====
section
/-! DEFINITION. The whole message: the pseudo-instruction HASH (R72, R138) and the digest as a function (R139). -/

namespace Sys2Proof.Machine

/-- `q = L div R_BYTES`, the number of full blocks of a message (R72, R138). -/
def fullBlocks (v : Variant) (M : List Byte) : Nat := M.length / v.rBytes

/-- Block `i` of a message, `M[i*R_BYTES .. i*R_BYTES + R_BYTES−1]` (R72). -/
def messageBlock (v : Variant) (M : List Byte) (i : Nat) : List Byte := (M.drop (i * v.rBytes)).take v.rBytes

/-- `M[q*R_BYTES .. L−1]`, the last `L % R_BYTES` bytes, possibly none (R72). -/
def messageTail (v : Variant) (M : List Byte) : List Byte := M.drop (fullBlocks v M * v.rBytes)

/-- `HASH M` (R72): INIT, one ABSORB for each full block, FINAL with the rest, SQUEEZE. -/
def hashCommands (v : Variant) (M : List Byte) : List Instr :=
  .init :: ((List.range (fullBlocks v M)).map fun i => Instr.absorb (messageBlock v M i)) ++
    [.final (messageTail v M), .squeeze]

/-- The request bytes of a sequence of commands, in order. -/
def requestsOf (cmds : List Instr) : List Byte := cmds.flatMap encode

/-- `S_i` of R139: the state after the first `i` blocks, from the all-zero state `S_0`. -/
def absorbedBlocks (v : Variant) (M : List Byte) : Nat → Lanes
  | 0 => Vector.replicate 25 0#64
  | i + 1 => keccakF (absorbXor v (absorbedBlocks v M i) (messageBlock v M i))

/-- `S_q'` of R139: the state after the padded final block. -/
def closedState (v : Variant) (M : List Byte) : Lanes :=
  keccakF (absorbXor v (absorbedBlocks v M (fullBlocks v M)) (pad v (messageTail v M)))

/-- `Digest(M) = Extract(S_q')` (R139). -/
def digest (v : Variant) (M : List Byte) : List Byte := extract v (closedState v M)

end Sys2Proof.Machine
end

