-- ==== Sys2Proof/Machine/Assembler.lean ====
section
/-! DEFINITION. The textual form of a command sequence (R71) and the pseudo-instruction HASH (R72). -/

namespace Sys2Proof.Machine

/-! ### Lines -/

/-- One line of R71 or R72. -/
inductive Line where
  /-- `INIT`, `ABSORB <bytes>`, `FINAL [<bytes>]`, `SQUEEZE`, `ABORT`, `QUERY`. -/
  | command (i : Instr)
  /-- `RAW <hex32> [<bytes>]`: "the given word" and "the given bytes; used to write illegal words". -/
  | raw (word : Word32) (bytes : List Byte)
  /-- `HASH <bytes>` (R72). -/
  | hash (M : List Byte)
  deriving DecidableEq, Repr

/-- The request bytes of a line. "An `ABSORB` whose byte count is not `R_BYTES` assembles to an illegal word, and so
does a `FINAL` with `R_BYTES` or more bytes. An assembler must reject both" (R71). -/
def assembleLine (v : Variant) : Line → Option (List Byte)
  | .command i => if i.wellFormed v then some (encode i) else none
  | .raw word bytes => some (wordBytes word ++ bytes)
  | .hash M => some (requestsOf (hashCommands v M))

/-- The request bytes of a program, unless a line is rejected. -/
def assemble (v : Variant) (lines : List Line) : Option (List Byte) :=
  (lines.mapM (assembleLine v)).map List.flatten

/-! ### The text (log entry 17) -/

def quoteChar : Char := Char.ofNat 34

def isSpace (c : Char) : Bool := c == ' ' || c == '\t' || c == '\r'

/-- The lines of a text: every newline ends one, a comment's or a quoted string's too: DESIGN CHOICE (log entry 17). -/
def splitLines : List Char → List (List Char)
  | [] => [[]]
  | c :: cs =>
    if c == '\n' then [] :: splitLines cs
    else
      match splitLines cs with
      | [] => [[c]]
      | line :: lines => (c :: line) :: lines

/-- A line up to its comment: `;` starts one, but not inside a quoted string. -/
def dropComment : Bool → List Char → List Char
  | _, [] => []
  | quoted, c :: cs =>
    if c == ';' && !quoted then [] else c :: dropComment (if c == quoteChar then !quoted else quoted) cs

def trimLeft (cs : List Char) : List Char := cs.dropWhile isSpace

def trim (cs : List Char) : List Char := (trimLeft (trimLeft cs).reverse).reverse

/-- Split at every character `sep` that is not inside a quoted string. -/
def splitAtSep (sep : Char) : Bool → List Char → List (List Char)
  | _, [] => [[]]
  | quoted, c :: cs =>
    if c == sep && !quoted then [] :: splitAtSep sep false cs
    else
      match splitAtSep sep (if c == quoteChar then !quoted else quoted) cs with
      | [] => [[c]]
      | part :: parts => (c :: part) :: parts

def hexDigit (c : Char) : Option Nat :=
  let n := c.toNat
  if 48 ≤ n ∧ n ≤ 57 then some (n - 48)
  else if 65 ≤ n ∧ n ≤ 70 then some (n - 55)
  else if 97 ≤ n ∧ n ≤ 102 then some (n - 87)
  else none

/-- A digit string in a base, most significant first; `none` where a character is no digit. -/
def number (base : Nat) (digit : Char → Option Nat) (cs : List Char) : Option Nat :=
  if cs.isEmpty then none
  else cs.foldl (fun acc c => acc.bind fun a => (digit c).map (a * base + ·)) (some 0)

def decimalDigit (c : Char) : Option Nat := if 48 ≤ c.toNat ∧ c.toNat ≤ 57 then some (c.toNat - 48) else none

/-- "hex pairs, such as `616263`". R71 does not fix the case of their letters; either case is taken, and no blank may stand
among them: DESIGN CHOICE (log entry 17). -/
def hexPairs : List Char → Option (List Byte)
  | [] => some []
  | [_] => none
  | a :: b :: cs =>
    match hexDigit a, hexDigit b, hexPairs cs with
    | some x, some y, some bytes => some (BitVec.ofNat 8 (16 * x + y) :: bytes)
    | _, _, _ => none

/-- The bytes of "a quoted ASCII string", from after its opening quote to its closing quote, which ends the part. -/
def quotedBytes : List Char → Option (List Byte)
  | [] => none
  | [c] => if c == quoteChar then some [] else none
  | c :: cs =>
    if c == quoteChar || 127 < c.toNat then none else (quotedBytes cs).map (BitVec.ofNat 8 c.toNat :: ·)

/-- "a repetition, such as `61*135`, meaning 135 bytes of 0x61": one hex pair and a decimal count. -/
def repeatedByte (pair count : List Char) : Option (List Byte) :=
  match hexPairs pair, number 10 decimalDigit count with
  | some [b], some n => some (List.replicate n b)
  | _, _ => none

/-- One form of `<bytes>`. -/
def bytesPart (cs : List Char) : Option (List Byte) :=
  match cs with
  | [] => none
  | c :: rest =>
    if c == quoteChar then quotedBytes rest
    else
      match splitAtSep '*' false cs with
      | [pair, count] => repeatedByte pair count
      | _ => hexPairs cs

/-- `<bytes>`: "several of these joined by `,`". -/
def parseBytes (cs : List Char) : Option (List Byte) :=
  ((splitAtSep ',' false cs).mapM fun part => bytesPart (trim part)).map List.flatten

/-- `<hex32>`: "an unsigned hex number", written `0x...` (R10, R71), of at most 8 digits. -/
def parseHex32 : List Char → Option Word32
  | '0' :: 'x' :: digits =>
    if digits.length ≤ 8 then (number 16 hexDigit digits).map (BitVec.ofNat 32 ·) else none
  | _ => none

def noOperand (operand : List Char) (line : Line) : Option Line := if operand.isEmpty then some line else none

/-- The line a mnemonic and its operand text stand for. -/
def parseCommand (mnemonic operand : List Char) : Option Line :=
  if mnemonic = ['I', 'N', 'I', 'T'] then noOperand operand (.command .init)
  else if mnemonic = ['A', 'B', 'S', 'O', 'R', 'B'] then (parseBytes operand).map fun D => .command (.absorb D)
  else if mnemonic = ['F', 'I', 'N', 'A', 'L'] then
    if operand.isEmpty then some (.command (.final [])) else (parseBytes operand).map fun D => .command (.final D)
  else if mnemonic = ['S', 'Q', 'U', 'E', 'E', 'Z', 'E'] then noOperand operand (.command .squeeze)
  else if mnemonic = ['A', 'B', 'O', 'R', 'T'] then noOperand operand (.command .abort)
  else if mnemonic = ['Q', 'U', 'E', 'R', 'Y'] then noOperand operand (.command .query)
  else if mnemonic = ['R', 'A', 'W'] then
    let word := operand.takeWhile (!isSpace ·)
    let bytes := trimLeft (operand.dropWhile (!isSpace ·))
    (parseHex32 word).bind fun w =>
      if bytes.isEmpty then some (.raw w []) else (parseBytes bytes).map (.raw w)
  else if mnemonic = ['H', 'A', 'S', 'H'] then (parseBytes operand).map .hash
  else none

/-- The lines of a text, "one command per line". R71 is silent on blanks: those before a mnemonic and at the end of a line are
dropped, so an indented command is accepted, and a line that is blank but for its comment holds none: DESIGN CHOICE (log
entry 17). -/
def parseText (text : List Char) : Option (List Line) :=
  (((splitLines text).map fun l => trim (dropComment false l)).filter (!·.isEmpty)).mapM fun l =>
    parseCommand (l.takeWhile (!isSpace ·)) (trimLeft (l.dropWhile (!isSpace ·)))

/-- Assemble a text for an instance; `none` where a line is no line of R71 or R72, or must be rejected. -/
def assembleText (v : Variant) (text : List Char) : Option (List Byte) := (parseText text).bind (assemble v)

end Sys2Proof.Machine
end

