-- ==== Sys2Proof/Machine/Sequential.lean ====
section
/-! DEFINITION. The engine, the codec and the padding run as the pseudocode is written, statement by statement (R13), over
the lanes and the hidden state of R30. "A sequential implementation must keep the temporaries of rule R30" (R92); each
command may find any contents in them (D31), because it writes them before it reads them. -/

namespace Sys2Proof.Machine

/-- The lanes and the hidden state of R30. -/
structure Engine where
  lanes : Lanes
  /-- Round index `r`. -/
  round : Nat
  /-- Column parities `C[0..4]`. -/
  c : Vector Lane 5
  /-- `D` of Theta. -/
  d : Lane
  /-- The wanderer. -/
  t : Lane
  /-- The displaced lane. -/
  u : Lane
  /-- The row snapshot `b[0..4]`. -/
  b : Vector Lane 5
  /-- The block buffer `P`. -/
  block : List Byte
  /-- The digest buffer `O`. -/
  digest : List Byte
  deriving DecidableEq, Repr

/-! ### Theta (R86) -/

/-- `C[x] = A[x] ^ A[x+5] ^ A[x+10] ^ A[x+15] ^ A[x+20]`. -/
def Engine.thetaParity (e : Engine) (x : Fin 5) : Engine :=
  { e with c := e.c.set x.val (columnParity e.lanes x) }

/-- `A[x + 5y] <- A[x + 5y] ^ D`. -/
def Engine.thetaLane (x : Fin 5) (e : Engine) (y : Fin 5) : Engine :=
  { e with
    lanes := e.lanes.set (x.val + 5 * y.val) ((e.lanes[x.val + 5 * y.val]'(by omega)) ^^^ e.d) (by omega) }

/-- `let D = C[(x+4) % 5] ^ rotl64(C[(x+1) % 5], 1)`, then the five lanes of column `x`. -/
def Engine.thetaColumn (e : Engine) (x : Fin 5) : Engine :=
  (List.finRange 5).foldl (Engine.thetaLane x)
    { e with
      d := (e.c[(x.val + 4) % 5]'(Nat.mod_lt _ (by decide))) ^^^
        rotl64 (e.c[(x.val + 1) % 5]'(Nat.mod_lt _ (by decide))) 1 }

def Engine.theta (e : Engine) : Engine :=
  (List.finRange 5).foldl Engine.thetaColumn ((List.finRange 5).foldl Engine.thetaParity e)

/-! ### RhoPi (R87) -/

/-- `let u = A[j]; A[j] <- rotl64(t, ROT[k]); t = u`, with `j = PI[k]`. -/
def Engine.rhoPiStep (e : Engine) (k : Fin 24) : Engine :=
  { e with
    u := e.lanes[PI[k]]
    lanes := e.lanes.set PI[k].val (rotl64 e.t ROT[k])
    t := e.lanes[PI[k]] }

def Engine.rhoPi (e : Engine) : Engine :=
  (List.finRange 24).foldl Engine.rhoPiStep { e with t := e.lanes[1] }

/-! ### Chi (R89) -/

/-- `A[5y + i] <- A[5y + i] ^ ((~b[(i+1) % 5]) & b[(i+2) % 5])`. -/
def Engine.chiLane (y : Fin 5) (e : Engine) (i : Fin 5) : Engine :=
  { e with
    lanes := e.lanes.set (5 * y.val + i.val)
      ((e.lanes[5 * y.val + i.val]'(by omega)) ^^^
        (~~~(e.b[(i.val + 1) % 5]'(Nat.mod_lt _ (by decide))) &&& e.b[(i.val + 2) % 5]'(Nat.mod_lt _ (by decide))))
      (by omega) }

/-- `let b[0..4] = A[5y .. 5y+4]`, then the five lanes of row `y`. -/
def Engine.chiRow (e : Engine) (y : Fin 5) : Engine :=
  (List.finRange 5).foldl (Engine.chiLane y)
    { e with b := Vector.ofFn fun i : Fin 5 => e.lanes[5 * y.val + i.val]'(by omega) }

def Engine.chi (e : Engine) : Engine := (List.finRange 5).foldl Engine.chiRow e

/-! ### Iota, Round, KeccakF (R90, R81, R80) -/

def Engine.iota (e : Engine) (r : Fin 24) : Engine := { e with lanes := e.lanes.set 0 (e.lanes[0] ^^^ RC[r]) }

def Engine.keccakRound (e : Engine) (r : Fin 24) : Engine :=
  ((({ e with round := r.val } : Engine).theta.rhoPi).chi).iota r

def Engine.keccakF (e : Engine) : Engine := (List.finRange 24).foldl Engine.keccakRound e

/-! ### The codec and the padding (R112, R113, R131) -/

/-- `A[l] <- A[l] ^ le64(P[8l], ..., P[8l+7])`. -/
def Engine.absorbLane (e : Engine) (l : Fin 25) : Engine :=
  { e with lanes := e.lanes.set l.val (e.lanes[l] ^^^ blockLane e.block l.val) }

/-- `for l = 0 to R_LANES − 1`. -/
def Engine.absorbXor (v : Variant) (e : Engine) : Engine :=
  ((List.finRange 25).take v.rLanes).foldl Engine.absorbLane e

/-- `for b = 0 to R_BYTES − 1: P[b] = 0x00`, `for b = 0 to n − 1: P[b] = D[b]`, `P[n] = 0x01`,
`P[R_BYTES − 1] = P[R_BYTES − 1] | 0x80`. -/
def Engine.pad (v : Variant) (D : List Byte) (e : Engine) : Engine :=
  let e := { e with block := List.replicate v.rBytes 0x00#8 }
  let e := (List.range D.length).foldl (fun e b => { e with block := e.block.set b (D.getD b 0) }) e
  let e := { e with block := e.block.set D.length 0x01#8 }
  { e with block := e.block.set (v.rBytes - 1) (e.block.getD (v.rBytes - 1) 0 ||| 0x80#8) }

/-- `O[8l .. 8l+7] = bytes64(A[l])` for `l = 0 to OUT_LANES − 1`, the buffer filled from its start. -/
def Engine.extract (v : Variant) (e : Engine) : Engine :=
  ((List.finRange 25).take v.outLanes).foldl (fun e l => { e with digest := e.digest ++ bytes64 e.lanes[l] })
    { e with digest := [] }

/-! ### The commands' computations (R133, R134, R135) -/

/-- ABSORB's: the payload is the block buffer, then AbsorbXor and KeccakF. -/
def Engine.absorb (v : Variant) (D : List Byte) (e : Engine) : Engine :=
  (({ e with block := D } : Engine).absorbXor v).keccakF

/-- FINAL's: the padded payload is the block buffer, then AbsorbXor and KeccakF. -/
def Engine.final (v : Variant) (D : List Byte) (e : Engine) : Engine := ((e.pad v D).absorbXor v).keccakF

end Sys2Proof.Machine
end

