-- ==== Sys2Proof/Machine/System.lean ====
section
/-! DEFINITION. Several instances (R171): "They share no state, no constant table and no port", so a system is a list of
states, and everything that happens to it happens to one of them: its core's step, or its own host's action (log entry 19). -/

namespace Sys2Proof.Machine

/-! ### Building -/

/-- A system right after the resets of all its instances: "any number of instances of either variant" (R171), each with
the lanes its own reset leaves (R32). -/
def systemReset (built : List (Variant × Lanes)) : List State := built.map fun vA => State.resetWith vA.1 vA.2

/-! ### The core's side -/

/-- What one instance does, with every other instance as it was. Where the system has no instance `k`, nothing happens. -/
def onInstance (f : State → Host.Outcome State Fault Refusal) (sys : List State) (k : Nat) :
    Host.Outcome (List State) Fault Refusal :=
  match sys[k]? with
  | none => .next sys
  | some s =>
    match f s with
    | .next t => .next (sys.set k t)
    | .fault r => .fault r
    | .refused r => .refused r

/-- One step of instance `k`. -/
def stepInstance (sys : List State) (k : Nat) : Host.Outcome (List State) Fault Refusal := onInstance step sys k

/-! ### The host's side: every instance has its own two ports and its own reset -/

/-- The host sends bytes to instance `k`. -/
def sendToInstance (sys : List State) (k : Nat) (bytes : List Byte) : Host.Outcome (List State) Fault Refusal :=
  onInstance (fun s => .next (s.hostSend bytes)) sys k

/-- The host starts or stops taking the response bytes of instance `k`. -/
def readyInstance (sys : List State) (k : Nat) (on : Bool) : Host.Outcome (List State) Fault Refusal :=
  onInstance (fun s => .next (s.hostReady on)) sys k

/-- The host resets instance `k`: "each comes out of its own reset independently" (R171). -/
def resetInstance (sys : List State) (k : Nat) (A : Lanes) : Host.Outcome (List State) Fault Refusal :=
  onInstance (fun s => .next (s.hostReset A)) sys k

end Sys2Proof.Machine
end

