-- ==== Sys2Proof/Safety.lean ====
section
/-! DEFINITION. The terms of the claims: runs of the core and the host, the invariant of the ports, what the host cannot
learn, and the rules' own account of a request's answer, written from R66, R130, R160 to R162 apart from the machine. -/

namespace Sys2Proof.Safety

open Sys2Proof.Machine

/-! ### Runs -/

/-- What can happen to a core: one step of its own, or an action of the host (R15, R180). -/
inductive Event where
  /-- The core takes one step. -/
  | core
  /-- The host sends bytes. -/
  | send (bytes : List Byte)
  /-- The host starts or stops taking response bytes. -/
  | ready (on : Bool)
  /-- Reset, which leaves any lanes (R32). -/
  | reset (A : Lanes)
  deriving DecidableEq, Repr

/-- One event. -/
def act (e : Event) (s : State) : Host.Outcome State Fault Refusal :=
  match e with
  | .core => step s
  | .send bytes => .next (s.hostSend bytes)
  | .ready on => .next (s.hostReady on)
  | .reset A => .next (s.hostReset A)

/-- A run: its events in order. -/
def runEvents : List Event → State → Host.Outcome State Fault Refusal
  | [], s => .next s
  | e :: es, s =>
    match act e s with
    | .next t => runEvents es t
    | .fault r => .fault r
    | .refused r => .refused r

/-- No reset among the events. -/
def noReset (es : List Event) : Bool :=
  es.all fun
    | .reset _ => false
    | .core => true
    | .send _ => true
    | .ready _ => true

/-- The command stream of a run: the bytes the host sends, in order. -/
def sentBytes (es : List Event) : List Byte :=
  es.flatMap fun
    | .send bytes => bytes
    | .core => []
    | .ready _ => []
    | .reset _ => []

/-- The same event, but for the lanes a reset leaves. -/
inductive SameEvent : Event → Event → Prop where
  | core : SameEvent .core .core
  | send (bytes : List Byte) : SameEvent (.send bytes) (.send bytes)
  | ready (on : Bool) : SameEvent (.ready on) (.ready on)
  | reset (A B : Lanes) : SameEvent (.reset A) (.reset B)

/-! ### Runs of a system -/

/-- An event of a system: an event of one of its instances (R171). -/
structure SystemEvent where
  target : Nat
  event : Event
  deriving DecidableEq, Repr

/-- One event of a system. -/
def actSystem (e : SystemEvent) (sys : List State) : Host.Outcome (List State) Fault Refusal :=
  match e.event with
  | .core => stepInstance sys e.target
  | .send bytes => sendToInstance sys e.target bytes
  | .ready on => readyInstance sys e.target on
  | .reset A => resetInstance sys e.target A

/-- A run of a system: its events in order, which interleave the instances' in any way. -/
def runSystem : List SystemEvent → List State → Host.Outcome (List State) Fault Refusal
  | [], sys => .next sys
  | e :: es, sys =>
    match actSystem e sys with
    | .next sys' => runSystem es sys'
    | .fault r => .fault r
    | .refused r => .refused r

/-- The events of instance `k` in a run of a system, in order. -/
def eventsOf (k : Nat) (es : List SystemEvent) : List Event := (es.filter (·.target == k)).map (·.event)

/-! ### The ports -/

/-- The ports are as the rules keep them: the parser holds an incomplete request, and nothing while a response is
pending ("It is empty between transactions", R31; "at most one command is ever in progress", R60), and the response
port holds at most one response, a status byte and at most `OUT_BYTES` bytes (R61, R70). -/
abbrev PortsInv (s : State) : Prop :=
  decode s.parser = .incomplete ∧ (s.respPort ≠ [] → s.parser = []) ∧ s.respPort.length ≤ 1 + s.variant.outBytes

/-- Between transactions, with nothing sent and the host taking response bytes: the core "is idle, waiting for the next
command word" (R173). -/
abbrev Quiet (s : State) : Prop :=
  s.parser = [] ∧ s.cmdPort = [] ∧ s.respPort = [] ∧ s.respReady = true

/-! ### What the host cannot learn -/

/-- A phase in which "No command can read a lane" (R32) and the lanes "can never be read" (R136). -/
def lanesHidden : Phase → Bool
  | .idle => true
  | .absorb => false
  | .done => false
  | .aborted => true

/-- Two states the host cannot tell apart: equal but for lanes that no command can read. -/
abbrev HostEquivalent (s t : State) : Prop :=
  s.phase = t.phase ∧ s.variant = t.variant ∧ s.parser = t.parser ∧ s.cmdPort = t.cmdPort ∧
    s.respPort = t.respPort ∧ s.respReady = t.respReady ∧ s.received = t.received ∧
    (lanesHidden s.phase = false → s.lanes = t.lanes)

/-! ### The rules' account of a request -/

/-- `Legal(CW)` (R66). -/
def legal (v : Variant) (cw : Word32) : Bool :=
  rsvdField cw == 0 &&
    ((opField cw == 0x01 && lenField cw == 0) ||
     (opField cw == 0x02 && lenField cw == v.rBytes) ||
     (opField cw == 0x03 && lenField cw ≤ v.rBytes - 1) ||
     (opField cw == 0x04 && lenField cw == 0) ||
     (opField cw == 0x05 && lenField cw == 0) ||
     (opField cw == 0x06 && lenField cw == 0))

/-- The phase table (R130): the status of a command in a phase and the phase it leaves, by OP. -/
def phaseTable (op : Nat) (p : Phase) : Status × Phase :=
  match op, p with
  | 0x01, .idle => (.ok, .absorb)
  | 0x01, .absorb => (.ok, .absorb)
  | 0x01, .done => (.ok, .absorb)
  | 0x01, .aborted => (.ok, .absorb)
  | 0x02, .idle => (.errSequence, .idle)
  | 0x02, .absorb => (.ok, .absorb)
  | 0x02, .done => (.errSequence, .done)
  | 0x02, .aborted => (.errSequence, .aborted)
  | 0x03, .idle => (.errSequence, .idle)
  | 0x03, .absorb => (.ok, .done)
  | 0x03, .done => (.errSequence, .done)
  | 0x03, .aborted => (.errSequence, .aborted)
  | 0x04, .idle => (.errSequence, .idle)
  | 0x04, .absorb => (.errSequence, .absorb)
  | 0x04, .done => (.ok, .done)
  | 0x04, .aborted => (.errIo, .aborted)
  | 0x05, .idle => (.errSequence, .idle)
  | 0x05, .absorb => (.ok, .aborted)
  | 0x05, .done => (.errSequence, .done)
  | 0x05, .aborted => (.errSequence, .aborted)
  | 0x06, p => (.ok, p)
  | _, p => (.errIllegal, p)

/-- `Verdict(CW, PHASE)` (R162). -/
def verdict (v : Variant) (cw : Word32) (p : Phase) : Status :=
  if legal v cw = false then .errIllegal
  else if opField cw = 0x04 ∧ p = .aborted then .errIo
  else (phaseTable (opField cw).toNat p).1

/-- The phase a request leaves: the table's on OK, else unchanged (R130, R161). -/
def phaseAfter (v : Variant) (cw : Word32) (p : Phase) : Phase :=
  if verdict v cw p = .ok then (phaseTable (opField cw).toNat p).2 else p

/-- The lanes a request with payload `D` leaves (R132, R133, R134): only INIT, ABSORB and FINAL write them (R23). -/
def lanesAfter (v : Variant) (cw : Word32) (D : List Byte) (p : Phase) (A : Lanes) : Lanes :=
  if verdict v cw p = .ok then
    if opField cw = 0x01 then Vector.replicate 25 0#64
    else if opField cw = 0x02 then keccakF (absorbXor v A D)
    else if opField cw = 0x03 then keccakF (absorbXor v A (pad v D))
    else A
  else A

/-- The response to a request (R61, R160): the status byte, and on OK SQUEEZE's digest bytes or QUERY's four. -/
def responseTo (v : Variant) (cw : Word32) (p : Phase) (A : Lanes) : List Byte :=
  if verdict v cw p = .ok then
    if opField cw = 0x04 then Status.ok.code :: extract v A
    else if opField cw = 0x06 then Status.ok.code :: wordBytes (queryWord p v)
    else [Status.ok.code]
  else [(verdict v cw p).code]

/-- A request: a command word and its LEN payload bytes (R61). -/
structure Request where
  word : Word32
  payload : List Byte
  deriving DecidableEq, Repr

/-- "exactly `LEN` payload bytes" (R61). -/
def Request.framed (q : Request) : Bool := q.payload.length == lenField q.word

/-- The bytes of a request in port order (R61, R63). -/
def Request.bytes (q : Request) : List Byte := wordBytes q.word ++ q.payload

/-- The core holds, with no response pending, exactly the bytes of a framed request and then `rest`. -/
abbrev HoldsRequest (s : State) (q : Request) (rest : List Byte) : Prop :=
  s.respPort = [] ∧ s.parser ++ s.cmdPort = q.bytes ++ rest ∧ q.framed = true

/-- Every request with this OP whose word is not one the rule admits is answered ERR_ILLEGAL in every phase: its bytes
are taken, its payload discarded, and nothing else changes (R66, R64, R161). -/
abbrev OtherWordsAreIllegal (op : Byte) (admitted : Variant → Word32 → Prop) : Prop :=
  ∀ (s : State) (q : Request) (rest : List Byte),
    HoldsRequest s q rest → opField q.word = op → ¬admitted s.variant q.word →
      step s = .next { s with parser := [], cmdPort := rest, respPort := [0x01] }

/-- The state a request leaves. -/
def afterRequest (v : Variant) (σ : Lanes × Phase) (q : Request) : Lanes × Phase :=
  (lanesAfter v q.word q.payload σ.2 σ.1, phaseAfter v q.word σ.2)

/-- The state a sequence of requests leaves, "strictly one after another" (R52). -/
def afterRequests (v : Variant) (σ : Lanes × Phase) (qs : List Request) : Lanes × Phase :=
  qs.foldl (afterRequest v) σ

/-- The response stream of a sequence of requests. -/
def responseStream (v : Variant) : Lanes × Phase → List Request → List Byte
  | _, [] => []
  | σ, q :: qs => responseTo v q.word σ.2 σ.1 ++ responseStream v (afterRequest v σ q) qs

end Sys2Proof.Safety
end

