-- ==== Sys2Proof/Certificates/Slice0/Obligations.lean ====
section
/-! DEFINITION. The statements for the provers. -/

open Sys2Proof Sys2Proof.Machine Sys2Proof.Safety

/-! ### Parameters and tables -/

/-- R7: the parameters of each variant, with their definitions: the rate follows `R_BYTES = 200 − 2×output_len_bytes`,
the lane counts are the byte counts over 8, the capacity is the rest. R8: `OUT_BYTES ≤ R_BYTES`. -/
def Obligations.VariantParameters : Prop :=
  (∀ v : Variant,
    v.rBytes = stateBytes - 2 * v.outBytes ∧ v.rLanes = v.rBytes / 8 ∧ v.outLanes = v.outBytes / 8 ∧
      v.capBytes = stateBytes - v.rBytes ∧ v.outBytes ≤ v.rBytes) ∧
    stateBytes = nLanes * (laneBits / 8) ∧
    (Variant.keccak256.outBytes = 32 ∧ Variant.keccak256.rBytes = 136 ∧ Variant.keccak256.rLanes = 17 ∧
      Variant.keccak256.outLanes = 4 ∧ Variant.keccak256.capBytes = 64 ∧ Variant.keccak256.code = 0) ∧
    (Variant.keccak512.outBytes = 64 ∧ Variant.keccak512.rBytes = 72 ∧ Variant.keccak512.rLanes = 9 ∧
      Variant.keccak512.outLanes = 8 ∧ Variant.keccak512.capBytes = 128 ∧ Variant.keccak512.code = 1)

/-- R85: the three tables are what the generator formulas give; R84: `PI` holds each of the lanes 1 to 24 exactly
once; R83: "Every entry lies in 1..62". -/
def Obligations.TablesFollowTheirFormulas : Prop :=
  (∀ k : Fin 24, ROT[k] = rotFormula k.val ∧ PI[k].val = piFormula k.val ∧ RC[k] = rcFormula k.val) ∧
    (∀ j : Fin 25, (PI.toList.count j) = if j = 0 then 0 else 1) ∧ (∀ k : Fin 24, 1 ≤ ROT[k] ∧ ROT[k] ≤ 62)

/-! ### The permutation -/

/-- R11: `rotl64(v, 0) = v`, `rotl64(v, n) = ((v << n) | (v >> (64 − n))) & 0xFFFFFFFFFFFFFFFF` for `1 ≤ n ≤ 63`, and
"Bit `i` of the result is bit `(i − n) % 64` of `v`". -/
def Obligations.RotlMovesBits : Prop :=
  (∀ v : Lane, rotl64 v 0 = v) ∧
    (∀ (v : Lane) (n : Nat), 1 ≤ n → n ≤ 63 → rotl64 v n = (v <<< n ||| v >>> (64 - n)) &&& 0xFFFFFFFFFFFFFFFF#64) ∧
    ∀ (v : Lane) (n i : Nat), n < 64 → i < 64 → (rotl64 v n).getLsbD i = v.getLsbD ((i + 64 - n) % 64)

/-- R86, R14, R21: Theta changes each lane by the parities of two other columns: lane `(x, y)` by
`C[x−1] ^ rotl64(C[x+1], 1)`, where `C` is the exclusive or of a column's five lanes before the step. So two lanes of one
column change by the same value, and the all-zero and the all-ones states are unchanged. -/
def Obligations.ThetaChangesColumns : Prop :=
  (∀ (A : Lanes) (x y : Fin 5),
    (theta A)[laneIndex x y] =
      A[laneIndex x y] ^^^
        ((A[laneIndex (x + 4) 0] ^^^ A[laneIndex (x + 4) 1] ^^^ A[laneIndex (x + 4) 2] ^^^ A[laneIndex (x + 4) 3] ^^^
            A[laneIndex (x + 4) 4]) ^^^
          rotl64 (A[laneIndex (x + 1) 0] ^^^ A[laneIndex (x + 1) 1] ^^^ A[laneIndex (x + 1) 2] ^^^
            A[laneIndex (x + 1) 3] ^^^ A[laneIndex (x + 1) 4]) 1)) ∧
    theta (Vector.replicate 25 0#64) = Vector.replicate 25 0#64 ∧
    theta (Vector.replicate 25 (BitVec.allOnes 64)) = Vector.replicate 25 (BitVec.allOnes 64)

/-- R89: "The operation is bit-sliced: bit `z` of each output lane depends only on bit `z` of the five lanes of its
row", and it is `b[i] ^ (~b[i+1] & b[i+2])` of that row. -/
def Obligations.ChiIsBitSlicedByRow : Prop :=
  ∀ (A : Lanes) (x y : Fin 5) (z : Nat), z < 64 →
    (chi A)[laneIndex x y].getLsbD z =
      ((A[laneIndex x y].getLsbD z) ^^
        (!(A[laneIndex (x + 1) y].getLsbD z) && A[laneIndex (x + 2) y].getLsbD z))

/-- R88: the Rho+Pi walk writes `rotl64(A_in[s], rotation)` of every source lane `s` into its destination lane, where the
map is the walk's own (`PI[k]` and `ROT[k]` for the lane before, `PI[k−1]`, taking `PI[−1] = 1`), and lane `(x, y)` goes to
lane `(y, (2x + 3y) % 5)`. -/
def Obligations.RhoPiWalkHasItsClosedForm : Prop :=
  (∀ (A : Lanes) (s : Fin 25), (rhoPi A)[rhoPiDest[s]] = rotl64 A[s] rhoPiRotation[s]) ∧
    (rhoPiDest[0] = 0 ∧ rhoPiRotation[0] = 0 ∧ rhoPiDest[1] = PI[0] ∧ rhoPiRotation[1] = ROT[0]) ∧
    (∀ k : Fin 23, rhoPiDest[PI[k.castSucc]] = PI[k.succ] ∧ rhoPiRotation[PI[k.castSucc]] = ROT[k.succ]) ∧
    ∀ x y : Fin 5, rhoPiDest[laneIndex x y] = laneIndex y ⟨(2 * x.val + 3 * y.val) % 5, Nat.mod_lt _ (by decide)⟩

/-- R90: Iota changes lane 0 by `RC[r]` and no other lane, and "No `RC[r]` is zero, so every round changes lane 0". -/
def Obligations.IotaChangesLaneZeroOnly : Prop :=
  ∀ (A : Lanes) (r : Fin 24),
    (iota A r)[0] = A[0] ^^^ RC[r] ∧ (iota A r)[0] ≠ A[0] ∧ ∀ i : Fin 25, i ≠ 0 → (iota A r)[i] = A[i]

/-- R86, R87, R89, R90, R92: each step run statement by statement over its temporaries, from any contents of them,
gives the lanes the parallel step gives. -/
def Obligations.SequentialStepsAgree : Prop :=
  ∀ (e : Engine) (r : Fin 24),
    e.theta.lanes = theta e.lanes ∧ e.rhoPi.lanes = rhoPi e.lanes ∧ e.chi.lanes = chi e.lanes ∧
      (e.iota r).lanes = iota e.lanes r

/-- R92 and R30: the whole computations of ABSORB, FINAL and SQUEEZE, run statement by statement from any leftover
contents of the hidden state, give what the model's commands compute: "no rule reads them before writing them in the
same command". -/
def Obligations.SequentialCommandsAgree : Prop :=
  ∀ (v : Variant) (D : List Byte) (e : Engine),
    (e.absorb v D).lanes = keccakF (absorbXor v e.lanes D) ∧
      (D.length ≤ v.rBytes - 1 → (e.final v D).lanes = keccakF (absorbXor v e.lanes (pad v D))) ∧
      (e.extract v).digest = extract v e.lanes ∧ (e.extract v).lanes = e.lanes

/-- R91: the round function, and so `KeccakF`, is "a deterministic bijection on the 1600-bit state". -/
def Obligations.KeccakFIsABijection : Prop :=
  (∀ r : Fin 24, Function.Bijective fun A : Lanes => keccakRound A r) ∧ Function.Bijective keccakF

/-! ### The lane codec and the state byte space -/

/-- R111: `bytes64(v)` is `(v[7:0], v[15:8], ..., v[63:56])`, and "For every `v`, `le64(bytes64(v)) = v`, and for every 8
bytes `b`, `bytes64(le64(b)) = b`." -/
def Obligations.LaneBytesRoundTrip : Prop :=
  (∀ v : Lane,
    bytes64 v =
      [v.extractLsb' 0 8, v.extractLsb' 8 8, v.extractLsb' 16 8, v.extractLsb' 24 8, v.extractLsb' 32 8,
        v.extractLsb' 40 8, v.extractLsb' 48 8, v.extractLsb' 56 8]) ∧
    (∀ v : Lane,
      le64 (v.extractLsb' 0 8) (v.extractLsb' 8 8) (v.extractLsb' 16 8) (v.extractLsb' 24 8) (v.extractLsb' 32 8)
        (v.extractLsb' 40 8) (v.extractLsb' 48 8) (v.extractLsb' 56 8) = v) ∧
    ∀ b0 b1 b2 b3 b4 b5 b6 b7 : Byte,
      bytes64 (le64 b0 b1 b2 b3 b4 b5 b6 b7) = [b0, b1, b2, b3, b4, b5, b6, b7]

/-- R41: byte address `b` names bits `[8*(b % 8) + 7 : 8*(b % 8)]` of lane `A[b div 8]`; a byte written is the byte read,
every other byte of `SB` is left alone, and so is every lane but the byte's own; and the reverse: writing a lane writes
its eight bytes and no other. -/
def Obligations.SbWriteChangesOneByte : Prop :=
  ∀ (A : Lanes) (b : Fin 200) (x : Byte),
    sbRead A b = (A[b.val / 8]'(by omega)).extractLsb' (8 * (b.val % 8)) 8 ∧
      sbRead (sbWrite A b x) b = x ∧ (∀ a : Fin 200, a ≠ b → sbRead (sbWrite A b x) a = sbRead A a) ∧
      (∀ l : Fin 25, l.val ≠ b.val / 8 → (sbWrite A b x)[l] = A[l]) ∧
      ∀ (l : Fin 25) (w : Lane),
        sbRead (A.set l.val w) b = if b.val / 8 = l.val then w.extractLsb' (8 * (b.val % 8)) 8 else sbRead A b

/-- R42: `MemRead(addr, n)` with `addr + n ≤ 200` is the unsigned `8n`-bit value whose byte `k` is `SB[addr+k]`;
`MemWrite(addr, n, v)` sets `SB[addr+k] <- v[8k+7:8k]` and no other byte; "So `MemRead(8l, 8) = A[l]`, and
`MemWrite(8l, 8, v)` is `A[l] <- v`". -/
def Obligations.MemReadAndMemWrite : Prop :=
  (∀ (A : Lanes) (addr n x : Nat), addr + n ≤ 200 →
    (∃ r : Nat, memRead A addr n = some r ∧ r < 2 ^ (8 * n) ∧
      ∀ k : Fin 200, addr ≤ k.val → k.val < addr + n → BitVec.ofNat 8 (r >>> (8 * (k.val - addr))) = sbRead A k) ∧
      ∃ B : Lanes, memWrite A addr n x = some B ∧
        ∀ b : Fin 200,
          sbRead B b =
            if addr ≤ b.val ∧ b.val < addr + n then BitVec.ofNat 8 (x >>> (8 * (b.val - addr))) else sbRead A b) ∧
    ∀ (A : Lanes) (l : Fin 25) (x : Lane),
      memRead A (8 * l.val) 8 = some A[l].toNat ∧ memWrite A (8 * l.val) 8 x.toNat = some (A.set l.val x)

/-- R112: `A[l] <- A[l] ^ le64(P[8l], ..., P[8l+7])` for the lanes of the rate and no other lane; "Equivalently,
`MemWrite(b, 1, MemRead(b, 1) ^ P[b])` for `b = 0 to R_BYTES − 1`", and no other byte. -/
def Obligations.AbsorbXorByBytes : Prop :=
  ∀ (v : Variant) (A : Lanes) (P : List Byte),
    P.length = v.rBytes →
      (∀ l : Fin 25,
        (absorbXor v A P)[l] =
          if l.val < v.rLanes then
            A[l] ^^^ le64 (P.getD (8 * l.val) 0) (P.getD (8 * l.val + 1) 0) (P.getD (8 * l.val + 2) 0)
              (P.getD (8 * l.val + 3) 0) (P.getD (8 * l.val + 4) 0) (P.getD (8 * l.val + 5) 0)
              (P.getD (8 * l.val + 6) 0) (P.getD (8 * l.val + 7) 0)
          else A[l]) ∧
        ∀ b : Fin 200,
          sbRead (absorbXor v A P) b = if b.val < v.rBytes then sbRead A b ^^^ P.getD b.val 0 else sbRead A b

/-- R112: "Absorbing the same `P` twice with nothing in between restores `A`"; R115: the capacity lanes
`R_LANES .. 24` are not changed. R112 gives `P` exactly `R_BYTES` bytes; for a `P` of another length, which no command
passes, what is absorbed is the model's choice (log entry 18). -/
def Obligations.AbsorbXorTwiceRestores : Prop :=
  ∀ (v : Variant) (A : Lanes) (P : List Byte),
    absorbXor v (absorbXor v A P) P = A ∧ ∀ l : Fin 25, v.rLanes ≤ l.val → (absorbXor v A P)[l] = A[l]

/-- R113: `O[8l .. 8l+7] = bytes64(A[l])` for the first `OUT_LANES` lanes, which is `O[k] = MemRead(k, 1)` for
`k = 0 to OUT_BYTES − 1`: digest byte `k` is `SB[k]` (R45). -/
def Obligations.ExtractIsTheFirstStateBytes : Prop :=
  ∀ (v : Variant) (A : Lanes),
    extract v A = ((List.finRange 25).take v.outLanes).flatMap (fun l => bytes64 A[l]) ∧
      extract v A = ((List.finRange 200).take v.outBytes).map (sbRead A)

/-- R131: `Pad` gives exactly `R_BYTES` bytes: the message bytes unchanged, `0x01` after them, zeros, and `0x80`
or-ed into the last byte. -/
def Obligations.PadBytes : Prop :=
  ∀ (v : Variant) (D : List Byte),
    D.length ≤ v.rBytes - 1 →
      (pad v D).length = v.rBytes ∧
        ∀ k : Nat, k < v.rBytes →
          (pad v D).getD k 0 =
            (if k < D.length then D.getD k 0 else if k = D.length then 0x01#8 else 0x00#8) |||
              (if k = v.rBytes - 1 then 0x80#8 else 0x00#8)

/-! ### Encoding -/

/-- R65, R67, R68: command words written out from the spec's fields decode to the commands they stand for; a reserved OP, a
nonzero RSVD field and a nonzero LEN of SQUEEZE to none, with the LEN payload bytes taken. The names of the reasons
(`reservedOp`, `reservedBits`, `lenNotZero`) are the model's choice: log entry 10. -/
def Obligations.CommandWordsDecode : Prop :=
  decode [0x01, 0x00, 0x00, 0x00] = .command .init [] ∧
    decode ([0x02, 0x48, 0x00, 0x00] ++ List.replicate 72 0xAA) = .command (.absorb (List.replicate 72 0xAA)) [] ∧
    decode [0x03, 0x03, 0x00, 0x00, 0x61, 0x62, 0x63] = .command (.final [0x61, 0x62, 0x63]) [] ∧
    decode [0x03, 0x00, 0x00, 0x00, 0x05] = .command (.final []) [0x05] ∧
    decode [0x04, 0x00, 0x00, 0x00] = .command .squeeze [] ∧
    decode [0x05, 0x00, 0x00, 0x00] = .command .abort [] ∧
    decode [0x06, 0x00, 0x00, 0x00] = .command .query [] ∧
    decode [0x00, 0x00, 0x00, 0x00] = .illegal .reservedOp [] ∧
    decode [0x07, 0x00, 0x00, 0x00] = .illegal .reservedOp [] ∧
    decode [0x01, 0x00, 0x01, 0x00] = .illegal .reservedBits [] ∧
    decode [0x06, 0x00, 0x00, 0x80] = .illegal .reservedBits [] ∧
    decode [0x04, 0x01, 0x00, 0x00, 0x09, 0x06] = .illegal .lenNotZero [0x06]

/-- R67: no command word is two rows' of the opcode table. -/
def Obligations.OpcodeRowsAreDisjoint : Prop :=
  opcodeTable.Pairwise fun r r' => ∀ cw : Word32, ¬(cw &&& r.mask = r.pattern ∧ cw &&& r'.mask = r'.pattern)

/-- R61 to R63, R65: decoding the request bytes of a command an instance admits, whatever bytes follow them, gives the
command back with every payload byte, and leaves the bytes that follow. -/
def Obligations.DecodeOfEncode : Prop :=
  ∀ (v : Variant) (i : Instr) (rest : List Byte),
    i.wellFormed v = true → decode (encode i ++ rest) = .command i rest

/-- R62, R66, R67: the other direction: bytes that decode to a command are its encoding, so each command has one
encoding. -/
def Obligations.EncodeOfDecode : Prop :=
  ∀ (bytes : List Byte) (i : Instr) (rest : List Byte),
    decode bytes = .command i rest → bytes = encode i ++ rest

/-- R66: a word is legal exactly when it decodes to a command whose LEN the instance admits. -/
def Obligations.LegalWordsAreTheAdmittedCommands : Prop :=
  ∀ (v : Variant) (q : Request) (rest : List Byte),
    q.framed = true →
      (legal v q.word = true ↔ ∃ i : Instr, decode (q.bytes ++ rest) = .command i rest ∧ i.wellFormed v = true)

/-! ### The step -/

/-- R15, R48, R61: a step at a state whose ports hold a complete request for a command is that command's meaning on the
state with exactly the request's bytes taken. -/
def Obligations.StepRunsTheDecodedCommand : Prop :=
  ∀ (s : State) (i : Instr) (rest : List Byte),
    s.respPort = [] → decode (s.parser ++ s.cmdPort) = .command i rest →
      step s = exec i { s with parser := [], cmdPort := rest }

/-- R61, R63, R64: a table word placed at the ports (`withFetchWord`) is what the very next step runs, on the state with
the pending response delivered and the parser empty. -/
def Obligations.StepRunsTheTableWord : Prop :=
  ∀ (s : State) (nbits w : Nat) (i : Instr),
    decodeTableWord nbits w = some i →
      step (s.withFetchWord nbits w) = exec i
        { s with parser := [], respPort := [], received := s.received ++ s.respPort }

/-- R61, R64, R66, R130, R132 to R137, R160 to R162: any request, legal or not, is answered in one step as the rules'
own account says, its `4 + LEN` bytes are taken, and nothing else changes. -/
def Obligations.RequestIsAnsweredAsTheRulesSay : Prop :=
  ∀ (s : State) (q : Request) (rest : List Byte),
    HoldsRequest s q rest →
      step s = .next
        { s with
          lanes := lanesAfter s.variant q.word q.payload s.phase s.lanes
          phase := phaseAfter s.variant q.word s.phase
          parser := []
          cmdPort := rest
          respPort := responseTo s.variant q.word s.phase s.lanes }

/-- R66, R64, R161: a word for which `Legal` is false gets ERR_ILLEGAL in every phase, its LEN payload bytes are taken
and discarded, and it changes no state. -/
def Obligations.IllegalWordIsRefusedWithoutEffect : Prop :=
  ∀ (s : State) (q : Request) (rest : List Byte),
    HoldsRequest s q rest → legal s.variant q.word = false →
      step s = .next { s with parser := [], cmdPort := rest, respPort := [0x01] }

/-- R161: a command answered with an error status leaves lanes and PHASE as they were, whatever its request; its only
effects are to take its bytes and send its one status byte. -/
def Obligations.RejectedRequestWritesNoState : Prop :=
  ∀ (s t : State) (q : Request) (rest : List Byte),
    HoldsRequest s q rest → step s = .next t →
      t.respPort.head? ≠ some 0x00 →
        ∃ code : Byte, code ∈ [0x01, 0x02, 0x03] ∧
          t = { s with parser := [], cmdPort := rest, respPort := [code] }

/-- R70: a request has `4 + CW[15:8]` bytes, and "A response's length follows from the command and its status": 1 byte
when the status is not OK, `1 + OUT_BYTES` for SQUEEZE with OK, 5 for QUERY with OK, 1 otherwise. -/
def Obligations.RequestAndResponseLengths : Prop :=
  (∀ q : Request, q.framed = true → q.bytes.length = 4 + (q.word.extractLsb' 8 8).toNat) ∧
    ∀ (s t : State) (q : Request) (rest : List Byte),
      HoldsRequest s q rest → step s = .next t →
        t.respPort.length =
          if verdict s.variant q.word s.phase = .ok then
            if opField q.word = 0x04 then 1 + s.variant.outBytes else if opField q.word = 0x06 then 5 else 1
          else 1

/-- From R186: while fewer than four bytes of a word, or fewer than LEN payload bytes, have arrived, the command has no
effect: a step takes the bytes offered into the parser and changes nothing else, and from there, however many steps the
core takes and whatever the host does with the response port, nothing changes but the host's own flow control. That one
step takes every byte offered is the model's choice (log entry 5), and that a waiting step is a next state is the model's
reading (log entry 7). -/
def Obligations.IncompleteRequestWaits : Prop :=
  ∀ s : State,
    s.respPort = [] →
      ((s.parser ++ s.cmdPort).length < 4 ∨
        ∃ (c0 c1 c2 c3 : Byte) (D : List Byte),
          s.parser ++ s.cmdPort = c0 :: c1 :: c2 :: c3 :: D ∧ D.length < c1.toNat) →
        step s = .next { s with parser := s.parser ++ s.cmdPort, cmdPort := [] } ∧
          ∀ es : List Event,
            (∀ e ∈ es, e = .core ∨ ∃ on : Bool, e = .ready on) →
              ∃ on : Bool,
                runEvents es { s with parser := s.parser ++ s.cmdPort, cmdPort := [] } =
                  .next { s with parser := s.parser ++ s.cmdPort, cmdPort := [], respReady := on }

/-- From R60: while a response byte is pending the core takes no command byte and executes nothing; the byte goes to the
host when the host takes it, and is kept when it does not. The grain, one byte a step, and the field `received` are the
model's choice: log entry 6. -/
def Obligations.ResponseComesBeforeTheNextRequest : Prop :=
  ∀ (s : State) (b : Byte) (bs : List Byte),
    s.respPort = b :: bs →
      (s.respReady = true → step s = .next { s with respPort := bs, received := s.received ++ [b] }) ∧
        (s.respReady = false → step s = .next s)

/-- From R164, R165, R169, R173, R186: no step ends in a fault or a refusal, from any state. That the core has nothing that
stops is the model's reading of R164 and R165 (log entry 12), and so is that a core which lacks bytes takes a step that
leaves it waiting (log entry 7). -/
def Obligations.EveryStepAnswersANextState : Prop := ∀ s : State, ∃ t : State, step s = .next t

/-! ### The commands -/

/-- R132: INIT, in every phase, leaves all 25 lanes 0 and `PHASE = ABSORB`, answers `00`, and changes nothing else; its
word is 0x00000001, and any other word with its OP is illegal. -/
def Obligations.InitStartsAMessage : Prop :=
  (∀ s : State,
    exec .init s = .next
      { s with lanes := Vector.replicate 25 0#64, phase := .absorb, respPort := s.respPort ++ [0x00] }) ∧
    Instr.init.word = 0x00000001 ∧ OtherWordsAreIllegal 0x01 (fun _ cw => cw = 0x00000001)

/-- R133: ABSORB of a block of `R_BYTES` bytes in ABSORB XORs it into the rate, permutes, answers `00`, and changes
nothing else (PHASE stays ABSORB); in IDLE, DONE and ABORTED it answers ERR_SEQUENCE and changes nothing; its word is
0x00008802 in KECCAK256 and 0x00004802 in KECCAK512, and any other word with its OP is illegal. -/
def Obligations.AbsorbPermutesOneBlock : Prop :=
  (∀ (s : State) (block : List Byte), block.length = s.variant.rBytes →
    (s.phase = .absorb →
      exec (.absorb block) s = .next
        { s with lanes := keccakF (absorbXor s.variant s.lanes block), respPort := s.respPort ++ [0x00] }) ∧
      (s.phase ≠ .absorb → exec (.absorb block) s = .next { s with respPort := s.respPort ++ [0x02] }) ∧
      (Instr.absorb block).word = match s.variant with | .keccak256 => 0x00008802#32 | .keccak512 => 0x00004802#32) ∧
    OtherWordsAreIllegal 0x02 fun v cw => cw = match v with | .keccak256 => 0x00008802#32 | .keccak512 => 0x00004802#32

/-- R134: FINAL of `n ≤ R_BYTES − 1` bytes in ABSORB absorbs the padded block, sets `PHASE = DONE`, answers `00`, and
changes nothing else; in IDLE, DONE and ABORTED it answers ERR_SEQUENCE and changes nothing; its word is
`0x00000003 | n << 8`, and a word with its OP and `n ≥ R_BYTES` or `RSVD ≠ 0` is illegal. -/
def Obligations.FinalClosesTheMessage : Prop :=
  (∀ (s : State) (msg : List Byte), msg.length ≤ s.variant.rBytes - 1 →
    (s.phase = .absorb →
      exec (.final msg) s = .next
        { s with
          lanes := keccakF (absorbXor s.variant s.lanes (pad s.variant msg))
          phase := .done
          respPort := s.respPort ++ [0x00] }) ∧
      (s.phase ≠ .absorb → exec (.final msg) s = .next { s with respPort := s.respPort ++ [0x02] }) ∧
      (Instr.final msg).word = 0x00000003#32 ||| BitVec.ofNat 32 msg.length <<< 8) ∧
    OtherWordsAreIllegal 0x03 fun v cw => lenField cw < v.rBytes ∧ rsvdField cw = 0

/-- R135: SQUEEZE in DONE answers `00` and the bytes of `Extract(A)`, which are `SB[0 .. OUT_BYTES−1]`, byte 0 first
(R45), and changes nothing else; in ABORTED it answers ERR_IO, in IDLE and ABSORB ERR_SEQUENCE, and changes nothing; its
word is 0x00000004, and any other word with its OP is illegal. -/
def Obligations.SqueezeReturnsTheDigest : Prop :=
  (∀ s : State,
    (s.phase = .done →
      exec .squeeze s = .next { s with respPort := s.respPort ++ 0x00 :: extract s.variant s.lanes } ∧
        exec .squeeze s = .next
          { s with
            respPort := s.respPort ++ 0x00 :: ((List.finRange 200).take s.variant.outBytes).map (sbRead s.lanes) }) ∧
      (s.phase = .aborted → exec .squeeze s = .next { s with respPort := s.respPort ++ [0x03] }) ∧
      (s.phase = .idle ∨ s.phase = .absorb → exec .squeeze s = .next { s with respPort := s.respPort ++ [0x02] })) ∧
    Instr.squeeze.word = 0x00000004 ∧ OtherWordsAreIllegal 0x04 (fun _ cw => cw = 0x00000004)

/-- R136: ABORT in ABSORB sets `PHASE = ABORTED`, answers `00`, and changes nothing else: the lanes are unchanged; in IDLE,
DONE and ABORTED it answers ERR_SEQUENCE and changes nothing; its word is 0x00000005, and any other word with its OP is
illegal. In ABORTED, SQUEEZE answers ERR_IO, ABSORB and FINAL ERR_SEQUENCE, and no command but INIT leaves ABORTED: "After
ABORT, every SQUEEZE returns ERR_IO until INIT". -/
def Obligations.AbortKeepsTheLanes : Prop :=
  (∀ s : State,
    (s.phase = .absorb → exec .abort s = .next { s with phase := .aborted, respPort := s.respPort ++ [0x00] }) ∧
      (s.phase ≠ .absorb → exec .abort s = .next { s with respPort := s.respPort ++ [0x02] })) ∧
    (∀ s : State, s.phase = .aborted →
      exec .squeeze s = .next { s with respPort := s.respPort ++ [0x03] } ∧
        (∀ block : List Byte, block.length = s.variant.rBytes →
          exec (.absorb block) s = .next { s with respPort := s.respPort ++ [0x02] }) ∧
        (∀ msg : List Byte, msg.length ≤ s.variant.rBytes - 1 →
          exec (.final msg) s = .next { s with respPort := s.respPort ++ [0x02] }) ∧
        ∀ (i : Instr) (t : State), i ≠ .init → exec i s = .next t → t.phase = .aborted) ∧
    Instr.abort.word = 0x00000005 ∧ OtherWordsAreIllegal 0x05 (fun _ cw => cw = 0x00000005)

/-- R137: QUERY in every phase answers `00` and the four bytes of
`Q = PHASE | VARIANT << 8 | R_BYTES << 16 | OUT_BYTES << 24`, least significant first, and changes nothing else; its word is
0x00000006, and any other word with its OP is illegal. -/
def Obligations.QueryReportsPhaseAndVariant : Prop :=
  (∀ s : State,
    exec .query s = .next
      { s with
        respPort := s.respPort ++
          [0x00, s.phase.code.setWidth 8, BitVec.ofNat 8 s.variant.code, BitVec.ofNat 8 s.variant.rBytes,
            BitVec.ofNat 8 s.variant.outBytes] }) ∧
    Instr.query.word = 0x00000006 ∧ OtherWordsAreIllegal 0x06 (fun _ cw => cw = 0x00000006)

/-- R28: every field of the QUERY word, the reserved ones reading 0; so it reads `0x20880000 | PHASE` in a KECCAK256
instance and `0x40480100 | PHASE` in a KECCAK512 instance. -/
def Obligations.QueryWordFields : Prop :=
  ∀ s : State,
    (s.queryWord.extractLsb' 0 2 = s.phase.code ∧ s.queryWord.extractLsb' 2 6 = 0 ∧
      s.queryWord.extractLsb' 8 1 = BitVec.ofNat 1 s.variant.code ∧ s.queryWord.extractLsb' 9 7 = 0 ∧
      s.queryWord.extractLsb' 16 8 = BitVec.ofNat 8 s.variant.rBytes ∧
      s.queryWord.extractLsb' 24 8 = BitVec.ofNat 8 s.variant.outBytes) ∧
      s.queryWord =
        (match s.variant with | .keccak256 => 0x20880000#32 | .keccak512 => 0x40480100#32) |||
          s.phase.code.setWidth 32

/-- R133, R134, R162: the meanings of ABSORB and FINAL themselves refuse a LEN the instance does not admit, in every phase,
with ERR_ILLEGAL, and change nothing else. -/
def Obligations.WrongLengthIsIllegalInEveryPhase : Prop :=
  (∀ (s : State) (block : List Byte),
    block.length ≠ s.variant.rBytes → exec (.absorb block) s = .next { s with respPort := s.respPort ++ [0x01] }) ∧
    ∀ (s : State) (msg : List Byte),
      s.variant.rBytes ≤ msg.length → exec (.final msg) s = .next { s with respPort := s.respPort ++ [0x01] }

/-- R50: "SQUEEZE and QUERY write nothing. Repeating either one with no command in between gives the same response. INIT is
idempotent": run again once its response has been delivered, each leaves the state and gives the response it left and gave.
"FINAL and ABORT change `PHASE`, so the same command a second time fails with ERR_SEQUENCE": run again once its response
has been delivered, an admitted FINAL or an ABORT changes nothing. -/
def Obligations.RepeatingACommand : Prop :=
  (∀ (i : Instr) (s t : State),
    i = .init ∨ i = .squeeze ∨ i = .query → exec i s = .next t →
      exec i { t with respPort := s.respPort } = .next t ∧ (i ≠ .init → t.lanes = s.lanes ∧ t.phase = s.phase)) ∧
    ∀ (i : Instr) (s t : State),
      (i = .abort ∨ ∃ msg : List Byte, i = .final msg ∧ msg.length ≤ s.variant.rBytes - 1) → exec i s = .next t →
        exec i { t with respPort := s.respPort } = .next { t with respPort := s.respPort ++ [0x02] }

/-! ### Whole-machine rules -/

/-- R23: "The lanes are written only by three commands": a step that changes a lane executes an INIT, or an ABSORB or
FINAL in ABSORB. -/
def Obligations.OnlyInitAbsorbFinalWriteLanes : Prop :=
  ∀ s t : State,
    step s = .next t → t.lanes ≠ s.lanes →
      ∃ (i : Instr) (rest : List Byte),
        decode (s.parser ++ s.cmdPort) = .command i rest ∧
          (i = .init ∨ (s.phase = .absorb ∧ ∃ D : List Byte, i = .absorb D ∨ i = .final D))

/-- R130: INIT is the only way out of IDLE, DONE and ABORTED, and it leads to ABSORB; out of ABSORB a FINAL leads to
DONE and an ABORT to ABORTED, and nothing else leads out of it. -/
def Obligations.PhaseChangesOnlyAsTheTableSays : Prop :=
  ∀ s t : State,
    step s = .next t → t.phase ≠ s.phase →
      ∃ (i : Instr) (rest : List Byte),
        decode (s.parser ++ s.cmdPort) = .command i rest ∧
          ((i = .init ∧ t.phase = .absorb) ∨
            (s.phase = .absorb ∧ ∃ D : List Byte, i = .final D ∧ t.phase = .done) ∨
            (s.phase = .absorb ∧ i = .abort ∧ t.phase = .aborted))

/-- R135, R163: a digest is given only by SQUEEZE in DONE: a step that starts a response of more than five bytes
executes a SQUEEZE there, and the response is `00` and the digest bytes of the lanes. -/
def Obligations.NoDigestBeforeTheFinalBlock : Prop :=
  ∀ s t : State,
    s.respPort = [] → step s = .next t → 5 < t.respPort.length →
      s.phase = .done ∧ t.respPort = 0x00 :: extract s.variant s.lanes ∧
        ∃ rest : List Byte, decode (s.parser ++ s.cmdPort) = .command .squeeze rest

/-- R23, R113: lanes `OUT_LANES .. 24` do not reach the port through SQUEEZE: its response is the same for two states
that agree on PHASE, VARIANT and the first `OUT_LANES` lanes. -/
def Obligations.SqueezeReadsOnlyTheOutputLanes : Prop :=
  ∀ s t s' t' : State,
    s.phase = t.phase → s.variant = t.variant → s.respPort = t.respPort →
      (∀ l : Fin 25, l.val < s.variant.outLanes → s.lane l = t.lane l) →
        exec .squeeze s = .next s' → exec .squeeze t = .next t' → s'.respPort = t'.respPort

/-- R25: no event of any run changes `VARIANT`. -/
def Obligations.VariantIsConstant : Prop :=
  ∀ (es : List Event) (s t : State), runEvents es s = .next t → t.variant = s.variant

/-! ### The ports' invariant -/

/-- R31, R32: the invariant of the ports holds after reset, for either variant and any lanes. -/
def Obligations.PortsInvAtReset : Prop := ∀ (v : Variant) (A : Lanes), PortsInv (State.resetWith v A)

/-- R31, R60, R61, R70: every step of the core, and every action of the host, keeps the invariant of the ports: the parser
holds an incomplete request, and nothing while a response is pending; the response port never holds more than one
response. -/
def Obligations.PortsInvIsKept : Prop :=
  (∀ s t : State, PortsInv s → step s = .next t → PortsInv t) ∧
    ∀ (e : Event) (s t : State), PortsInv s → act e s = .next t → PortsInv t

/-! ### Reset -/

/-- R32: after reset PHASE is IDLE, the parser and both ports are empty, VARIANT is the built constant, the QUERY word
has its constant fields and PHASE 0; the lanes are whatever reset leaves. The machine's own reset state is that of some
variant and some lanes (which ones is the model's choice: log entries 1 and 2). -/
def Obligations.ResetValues : Prop :=
  (∃ (v : Variant) (A : Lanes), State.reset = State.resetWith v A) ∧
  ∀ (v : Variant) (A : Lanes),
    (State.resetWith v A).phase = .idle ∧ (State.resetWith v A).variant = v ∧ (State.resetWith v A).parser = [] ∧
      (State.resetWith v A).cmdPort = [] ∧ (State.resetWith v A).respPort = [] ∧
      (State.resetWith v A).lanes = A ∧
      (State.resetWith v A).queryWord = (match v with | .keccak256 => 0x20880000#32 | .keccak512 => 0x40480100#32)

/-- R180: reset in any state, in the middle of a request or of a response, abandons the transaction: what follows is what
follows a reset of a fresh instance, but for the bytes the host has already received and its own flow control. -/
def Obligations.ResetAbandonsTheTransaction : Prop :=
  ∀ (s : State) (A B : Lanes),
    HostEquivalent (s.hostReset A)
      { State.resetWith s.variant B with respReady := s.respReady, received := s.received }

/-! ### Runs -/

/-- R140, R32: nothing the host sees depends on the lanes reset leaves, nor on the lanes of an aborted message: two runs
of the same events, whose resets may leave different lanes, from states that differ only in such lanes, stay
indistinguishable to the host, response bytes included. -/
def Obligations.HiddenLanesNeverReachTheHost : Prop :=
  ∀ (es es' : List Event) (s s' : State),
    HostEquivalent s s' → List.Forall₂ SameEvent es es' →
      ∃ t t' : State, runEvents es s = .next t ∧ runEvents es' s' = .next t' ∧ HostEquivalent t t'

/-- R140, R52: in every interleaving of the core's steps with the host's sending and taking of bytes, the bytes sent are a
sequence of requests and what the core has not answered yet, the response bytes are those requests' responses in order, and
the lanes and PHASE are what they leave, each command seeing all the effects of every earlier one; and from IDLE the
responses do not depend on the lanes: "The response stream is a function of the command stream and `VARIANT` only". -/
def Obligations.ResponsesAreAFunctionOfTheCommandStream : Prop :=
  (∀ (es : List Event) (s t : State),
    noReset es = true → s.parser = [] → s.cmdPort = [] → s.respPort = [] → runEvents es s = .next t →
      ∃ qs : List Request,
        (∀ q ∈ qs, q.framed = true) ∧
          sentBytes es = qs.flatMap Request.bytes ++ (t.parser ++ t.cmdPort) ∧
          t.received ++ t.respPort = s.received ++ responseStream s.variant (s.lanes, s.phase) qs ∧
          (t.lanes, t.phase) = afterRequests s.variant (s.lanes, s.phase) qs) ∧
    ∀ (v : Variant) (A B : Lanes) (qs : List Request),
      responseStream v (A, .idle) qs = responseStream v (B, .idle) qs

/-- R138, R139: from any quiet state, in any phase, with any lanes, the command sequence `HASH M` of a message of any
length is answered `00` for INIT, for each full block and for FINAL, and `00` and `Digest(M)` for SQUEEZE, and leaves
`PHASE = DONE`. -/
def Obligations.HashProgramAnswersTheDigest : Prop :=
  ∀ (M : List Byte) (s : State),
    Quiet s →
      ∃ (k : Nat) (t : State),
        Host.Core.run core k (s.hostSend (requestsOf (hashCommands s.variant M))) = .next t ∧ Quiet t ∧
          t.phase = .done ∧ t.lanes = closedState s.variant M ∧
          t.received =
            s.received ++ List.replicate (fullBlocks s.variant M + 2) 0x00 ++ 0x00 :: digest s.variant M

/-! ### The assembler and the system -/

/-- R71: "An assembler must reject both rather than emit them": an ABSORB or FINAL whose byte count the instance does not
admit; every other command line assembles to the command's request bytes. -/
def Obligations.AssemblerRejectsWrongLengths : Prop :=
  ∀ (v : Variant) (i : Instr) (rest : List Byte),
    (i.wellFormed v = false → assembleLine v (.command i) = none) ∧
      (i.wellFormed v = true →
        ∃ bytes : List Byte, assembleLine v (.command i) = some bytes ∧ decode (bytes ++ rest) = .command i rest)

/-- R72: `HASH M`, for a message of any length, assembles to what the lines of its expansion assemble to; the expansion
is INIT, one ABSORB for each of the `L div R_BYTES` full blocks, a FINAL with the last `L % R_BYTES` bytes, and SQUEEZE, and
its payloads, joined in order, are the message. -/
def Obligations.HashLineIsItsExpansion : Prop :=
  ∀ (v : Variant) (M : List Byte),
    (assembleLine v (.hash M)).isSome = true ∧
      assembleLine v (.hash M) = assemble v ((hashCommands v M).map Line.command) ∧
      (∃ blocks : List (List Byte), ∃ tail : List Byte,
        hashCommands v M = .init :: blocks.map Instr.absorb ++ [.final tail, .squeeze] ∧
          blocks.length = M.length / v.rBytes ∧ (∀ b ∈ blocks, b.length = v.rBytes) ∧
          tail.length = M.length % v.rBytes ∧ blocks.flatten ++ tail = M)

/-- From R171: in a system (a list of states: log entry 19) every instance is built with its own variant and comes out of its
own reset; instance `k` makes exactly its own step, or the action of its
own host, its reset among them, and no other instance changes; and in any interleaving of the instances' steps, sends, holds
and resets, every instance ends where its own events alone take it from its own state, whatever the other instances are
and do. -/
def Obligations.InstancesAreIndependent : Prop :=
  (∀ (built : List (Variant × Lanes)) (j : Nat) (v : Variant) (A : Lanes),
    built[j]? = some (v, A) → (systemReset built)[j]? = some (State.resetWith v A)) ∧
    (∀ (e : Event) (sys : List State) (k : Nat) (s : State), sys[k]? = some s →
      ∃ t : State, act e s = .next t ∧ actSystem ⟨k, e⟩ sys = .next (sys.set k t)) ∧
      ∀ (es : List SystemEvent) (sys : List State),
        ∃ sys' : List State, runSystem es sys = .next sys' ∧ sys'.length = sys.length ∧
          ∀ (j : Nat) (s : State), sys[j]? = some s →
            ∃ t : State, sys'[j]? = some t ∧ runEvents (eventsOf j es) s = .next t
end

