-- ==== Sys2Proof/Laws/Codec.lean ====
section
/-! SUPPORT. One lemma per function of the codec and the permutation: what each lane of the result is, and the lengths. -/

namespace Sys2Proof.Machine

/-! ### Lanes -/

/-- Two lane arrays are equal when their 25 lanes are. -/
theorem lanes_ext {A B : Lanes} (h : ∀ i : Fin 25, A[i] = B[i]) : A = B :=
  Vector.ext fun i hi => h ⟨i, hi⟩

/-- A lane array is its 25 lanes: the form in which a step of the permutation computes. -/
theorem lanes_eta (A : Lanes) :
    A = #v[A[0], A[1], A[2], A[3], A[4], A[5], A[6], A[7], A[8], A[9], A[10], A[11], A[12], A[13], A[14], A[15], A[16],
      A[17], A[18], A[19], A[20], A[21], A[22], A[23], A[24]] := by
  apply Vector.ext
  intro i hi
  interval_cases i <;> rfl

/-! ### The permutation's steps, lane by lane -/

/-- Theta at one lane (R86). -/
theorem theta_lane (A : Lanes) (i : Fin 25) :
    (theta A)[i] =
      A[i] ^^^ (columnParity A ⟨(i.val + 4) % 5, Nat.mod_lt _ (by decide)⟩ ^^^
        rotl64 (columnParity A ⟨(i.val + 1) % 5, Nat.mod_lt _ (by decide)⟩) 1) := by
  simp [theta]

/-- Chi at one lane (R89). -/
theorem chi_lane (A : Lanes) (i : Fin 25) :
    (chi A)[i] =
      A[i] ^^^ (~~~(A[5 * (i.val / 5) + (i.val + 1) % 5]'(by omega)) &&&
        A[5 * (i.val / 5) + (i.val + 2) % 5]'(by omega)) := by
  simp [chi]

/-- One step of the walk writes lane `PI[k]` and no other (R87). -/
theorem rhoPiStep_lane (w : Lanes × Lane) (k : Fin 24) (i : Fin 25) :
    (rhoPiStep w k).1[i] = if PI[k] = i then rotl64 w.2 ROT[k] else w.1[i] := by
  simp [rhoPiStep, Vector.getElem_set, Fin.ext_iff]

/-- The next wanderer is the lane the step displaces (R87). -/
theorem rhoPiStep_wanderer (w : Lanes × Lane) (k : Fin 24) : (rhoPiStep w k).2 = w.1[PI[k]] := rfl

/-! ### The codec -/

/-- AbsorbXor at one lane (R112). -/
theorem absorbXor_lane (v : Variant) (A : Lanes) (P : List Byte) (l : Fin 25) :
    (absorbXor v A P)[l] = if l.val < v.rLanes then A[l] ^^^ blockLane P l.val else A[l] := by
  simp [absorbXor]

@[simp] theorem bytes64_length (v : Lane) : (bytes64 v).length = 8 := rfl

@[simp] theorem extract_length (v : Variant) (A : Lanes) : (extract v A).length = v.outBytes := by
  unfold extract
  cases v <;> simp [Variant.outLanes, Variant.outBytes, List.length_flatMap, List.map_const']

/-- The bits of `v[8k+7 : 8k]` (R10). -/
theorem laneByte_getLsbD (v : Lane) (k i : Nat) : (laneByte v k).getLsbD i = (decide (i < 8) && v.getLsbD (8 * k + i)) := by
  simp [laneByte, BitVec.getLsbD_extractLsb']

@[simp] theorem pad_length (v : Variant) (D : List Byte) (h : D.length ≤ v.rBytes) : (pad v D).length = v.rBytes := by
  simp only [pad, List.length_set, List.length_append, List.length_replicate]
  omega

/-! ### Parameters -/

theorem rBytes_pos (v : Variant) : 0 < v.rBytes := by cases v <;> decide

end Sys2Proof.Machine
end

