-- ==== Sys2Proof/Laws/State.lean ====
section
/-! SUPPORT. One lemma per field per update of State, each true by rfl, so that no proof unfolds a record update. -/

namespace Sys2Proof.Machine

/-! ### Reset -/

@[simp] theorem State.lanes_resetWith (v : Variant) (A : Lanes) : (State.resetWith v A).lanes = A := rfl
@[simp] theorem State.phase_resetWith (v : Variant) (A : Lanes) : (State.resetWith v A).phase = .idle := rfl
@[simp] theorem State.variant_resetWith (v : Variant) (A : Lanes) : (State.resetWith v A).variant = v := rfl
@[simp] theorem State.parser_resetWith (v : Variant) (A : Lanes) : (State.resetWith v A).parser = [] := rfl
@[simp] theorem State.cmdPort_resetWith (v : Variant) (A : Lanes) : (State.resetWith v A).cmdPort = [] := rfl
@[simp] theorem State.respPort_resetWith (v : Variant) (A : Lanes) : (State.resetWith v A).respPort = [] := rfl
@[simp] theorem State.respReady_resetWith (v : Variant) (A : Lanes) : (State.resetWith v A).respReady = true := rfl
@[simp] theorem State.received_resetWith (v : Variant) (A : Lanes) : (State.resetWith v A).received = [] := rfl

/-! ### `setLanes` -/

@[simp] theorem State.lanes_setLanes (s : State) (A : Lanes) : (s.setLanes A).lanes = A := rfl
@[simp] theorem State.phase_setLanes (s : State) (A : Lanes) : (s.setLanes A).phase = s.phase := rfl
@[simp] theorem State.variant_setLanes (s : State) (A : Lanes) : (s.setLanes A).variant = s.variant := rfl
@[simp] theorem State.parser_setLanes (s : State) (A : Lanes) : (s.setLanes A).parser = s.parser := rfl
@[simp] theorem State.cmdPort_setLanes (s : State) (A : Lanes) : (s.setLanes A).cmdPort = s.cmdPort := rfl
@[simp] theorem State.respPort_setLanes (s : State) (A : Lanes) : (s.setLanes A).respPort = s.respPort := rfl
@[simp] theorem State.respReady_setLanes (s : State) (A : Lanes) : (s.setLanes A).respReady = s.respReady := rfl
@[simp] theorem State.received_setLanes (s : State) (A : Lanes) : (s.setLanes A).received = s.received := rfl

/-! ### `setPhase` -/

@[simp] theorem State.lanes_setPhase (s : State) (p : Phase) : (s.setPhase p).lanes = s.lanes := rfl
@[simp] theorem State.phase_setPhase (s : State) (p : Phase) : (s.setPhase p).phase = p := rfl
@[simp] theorem State.variant_setPhase (s : State) (p : Phase) : (s.setPhase p).variant = s.variant := rfl
@[simp] theorem State.parser_setPhase (s : State) (p : Phase) : (s.setPhase p).parser = s.parser := rfl
@[simp] theorem State.cmdPort_setPhase (s : State) (p : Phase) : (s.setPhase p).cmdPort = s.cmdPort := rfl
@[simp] theorem State.respPort_setPhase (s : State) (p : Phase) : (s.setPhase p).respPort = s.respPort := rfl
@[simp] theorem State.respReady_setPhase (s : State) (p : Phase) : (s.setPhase p).respReady = s.respReady := rfl
@[simp] theorem State.received_setPhase (s : State) (p : Phase) : (s.setPhase p).received = s.received := rfl

/-! ### `respond` -/

@[simp] theorem State.lanes_respond (s : State) (st : Status) (data : List Byte) : (s.respond st data).lanes = s.lanes := rfl
@[simp] theorem State.phase_respond (s : State) (st : Status) (data : List Byte) : (s.respond st data).phase = s.phase := rfl
@[simp] theorem State.variant_respond (s : State) (st : Status) (data : List Byte) : (s.respond st data).variant = s.variant := rfl
@[simp] theorem State.parser_respond (s : State) (st : Status) (data : List Byte) : (s.respond st data).parser = s.parser := rfl
@[simp] theorem State.cmdPort_respond (s : State) (st : Status) (data : List Byte) : (s.respond st data).cmdPort = s.cmdPort := rfl
@[simp] theorem State.respPort_respond (s : State) (st : Status) (data : List Byte) : (s.respond st data).respPort = s.respPort ++ st.code :: data := rfl
@[simp] theorem State.respReady_respond (s : State) (st : Status) (data : List Byte) : (s.respond st data).respReady = s.respReady := rfl
@[simp] theorem State.received_respond (s : State) (st : Status) (data : List Byte) : (s.respond st data).received = s.received := rfl

/-! ### `raise` -/

@[simp] theorem State.lanes_raise (s : State) (st : Status) : (s.raise st).lanes = s.lanes := rfl
@[simp] theorem State.phase_raise (s : State) (st : Status) : (s.raise st).phase = s.phase := rfl
@[simp] theorem State.variant_raise (s : State) (st : Status) : (s.raise st).variant = s.variant := rfl
@[simp] theorem State.parser_raise (s : State) (st : Status) : (s.raise st).parser = s.parser := rfl
@[simp] theorem State.cmdPort_raise (s : State) (st : Status) : (s.raise st).cmdPort = s.cmdPort := rfl
@[simp] theorem State.respPort_raise (s : State) (st : Status) : (s.raise st).respPort = s.respPort ++ [st.code] := rfl
@[simp] theorem State.respReady_raise (s : State) (st : Status) : (s.raise st).respReady = s.respReady := rfl
@[simp] theorem State.received_raise (s : State) (st : Status) : (s.raise st).received = s.received := rfl

/-! ### `absorbBlock` -/

@[simp] theorem State.lanes_absorbBlock (s : State) (P : List Byte) : (s.absorbBlock P).lanes = keccakF (absorbXor s.variant s.lanes P) := rfl
@[simp] theorem State.phase_absorbBlock (s : State) (P : List Byte) : (s.absorbBlock P).phase = s.phase := rfl
@[simp] theorem State.variant_absorbBlock (s : State) (P : List Byte) : (s.absorbBlock P).variant = s.variant := rfl
@[simp] theorem State.parser_absorbBlock (s : State) (P : List Byte) : (s.absorbBlock P).parser = s.parser := rfl
@[simp] theorem State.cmdPort_absorbBlock (s : State) (P : List Byte) : (s.absorbBlock P).cmdPort = s.cmdPort := rfl
@[simp] theorem State.respPort_absorbBlock (s : State) (P : List Byte) : (s.absorbBlock P).respPort = s.respPort := rfl
@[simp] theorem State.respReady_absorbBlock (s : State) (P : List Byte) : (s.absorbBlock P).respReady = s.respReady := rfl
@[simp] theorem State.received_absorbBlock (s : State) (P : List Byte) : (s.absorbBlock P).received = s.received := rfl

/-! ### `gather` -/

@[simp] theorem State.lanes_gather (s : State) : (s.gather).lanes = s.lanes := rfl
@[simp] theorem State.phase_gather (s : State) : (s.gather).phase = s.phase := rfl
@[simp] theorem State.variant_gather (s : State) : (s.gather).variant = s.variant := rfl
@[simp] theorem State.parser_gather (s : State) : (s.gather).parser = s.parser ++ s.cmdPort := rfl
@[simp] theorem State.cmdPort_gather (s : State) : (s.gather).cmdPort = [] := rfl
@[simp] theorem State.respPort_gather (s : State) : (s.gather).respPort = s.respPort := rfl
@[simp] theorem State.respReady_gather (s : State) : (s.gather).respReady = s.respReady := rfl
@[simp] theorem State.received_gather (s : State) : (s.gather).received = s.received := rfl

/-! ### `take` -/

@[simp] theorem State.lanes_take (s : State) (rest : List Byte) : (s.take rest).lanes = s.lanes := rfl
@[simp] theorem State.phase_take (s : State) (rest : List Byte) : (s.take rest).phase = s.phase := rfl
@[simp] theorem State.variant_take (s : State) (rest : List Byte) : (s.take rest).variant = s.variant := rfl
@[simp] theorem State.parser_take (s : State) (rest : List Byte) : (s.take rest).parser = [] := rfl
@[simp] theorem State.cmdPort_take (s : State) (rest : List Byte) : (s.take rest).cmdPort = rest := rfl
@[simp] theorem State.respPort_take (s : State) (rest : List Byte) : (s.take rest).respPort = s.respPort := rfl
@[simp] theorem State.respReady_take (s : State) (rest : List Byte) : (s.take rest).respReady = s.respReady := rfl
@[simp] theorem State.received_take (s : State) (rest : List Byte) : (s.take rest).received = s.received := rfl

/-! ### `hostSend` -/

@[simp] theorem State.lanes_hostSend (s : State) (bytes : List Byte) : (s.hostSend bytes).lanes = s.lanes := rfl
@[simp] theorem State.phase_hostSend (s : State) (bytes : List Byte) : (s.hostSend bytes).phase = s.phase := rfl
@[simp] theorem State.variant_hostSend (s : State) (bytes : List Byte) : (s.hostSend bytes).variant = s.variant := rfl
@[simp] theorem State.parser_hostSend (s : State) (bytes : List Byte) : (s.hostSend bytes).parser = s.parser := rfl
@[simp] theorem State.cmdPort_hostSend (s : State) (bytes : List Byte) : (s.hostSend bytes).cmdPort = s.cmdPort ++ bytes := rfl
@[simp] theorem State.respPort_hostSend (s : State) (bytes : List Byte) : (s.hostSend bytes).respPort = s.respPort := rfl
@[simp] theorem State.respReady_hostSend (s : State) (bytes : List Byte) : (s.hostSend bytes).respReady = s.respReady := rfl
@[simp] theorem State.received_hostSend (s : State) (bytes : List Byte) : (s.hostSend bytes).received = s.received := rfl

/-! ### `hostReady` -/

@[simp] theorem State.lanes_hostReady (s : State) (on : Bool) : (s.hostReady on).lanes = s.lanes := rfl
@[simp] theorem State.phase_hostReady (s : State) (on : Bool) : (s.hostReady on).phase = s.phase := rfl
@[simp] theorem State.variant_hostReady (s : State) (on : Bool) : (s.hostReady on).variant = s.variant := rfl
@[simp] theorem State.parser_hostReady (s : State) (on : Bool) : (s.hostReady on).parser = s.parser := rfl
@[simp] theorem State.cmdPort_hostReady (s : State) (on : Bool) : (s.hostReady on).cmdPort = s.cmdPort := rfl
@[simp] theorem State.respPort_hostReady (s : State) (on : Bool) : (s.hostReady on).respPort = s.respPort := rfl
@[simp] theorem State.respReady_hostReady (s : State) (on : Bool) : (s.hostReady on).respReady = on := rfl
@[simp] theorem State.received_hostReady (s : State) (on : Bool) : (s.hostReady on).received = s.received := rfl

/-! ### `hostReset` -/

@[simp] theorem State.lanes_hostReset (s : State) (A : Lanes) : (s.hostReset A).lanes = A := rfl
@[simp] theorem State.phase_hostReset (s : State) (A : Lanes) : (s.hostReset A).phase = .idle := rfl
@[simp] theorem State.variant_hostReset (s : State) (A : Lanes) : (s.hostReset A).variant = s.variant := rfl
@[simp] theorem State.parser_hostReset (s : State) (A : Lanes) : (s.hostReset A).parser = [] := rfl
@[simp] theorem State.cmdPort_hostReset (s : State) (A : Lanes) : (s.hostReset A).cmdPort = [] := rfl
@[simp] theorem State.respPort_hostReset (s : State) (A : Lanes) : (s.hostReset A).respPort = [] := rfl
@[simp] theorem State.respReady_hostReset (s : State) (A : Lanes) : (s.hostReset A).respReady = s.respReady := rfl
@[simp] theorem State.received_hostReset (s : State) (A : Lanes) : (s.hostReset A).received = s.received := rfl

/-! ### `offerRequest` -/

@[simp] theorem State.lanes_offerRequest (s : State) (request : List Byte) : (s.offerRequest request).lanes = s.lanes := rfl
@[simp] theorem State.phase_offerRequest (s : State) (request : List Byte) : (s.offerRequest request).phase = s.phase := rfl
@[simp] theorem State.variant_offerRequest (s : State) (request : List Byte) : (s.offerRequest request).variant = s.variant := rfl
@[simp] theorem State.parser_offerRequest (s : State) (request : List Byte) : (s.offerRequest request).parser = [] := rfl
@[simp] theorem State.cmdPort_offerRequest (s : State) (request : List Byte) : (s.offerRequest request).cmdPort = request ++ s.cmdPort := rfl
@[simp] theorem State.respPort_offerRequest (s : State) (request : List Byte) : (s.offerRequest request).respPort = [] := rfl
@[simp] theorem State.respReady_offerRequest (s : State) (request : List Byte) : (s.offerRequest request).respReady = s.respReady := rfl
@[simp] theorem State.received_offerRequest (s : State) (request : List Byte) : (s.offerRequest request).received = s.received ++ s.respPort := rfl

@[simp] theorem State.requestBytes_eq (s : State) : s.requestBytes = s.parser ++ s.cmdPort := rfl

end Sys2Proof.Machine
end

