-- ==== Sys2Proof/Laws/Commands.lean ====
section
/-! SUPPORT. What a command can do, once: its own effect, or one of the three error responses and nothing else. -/

namespace Sys2Proof.Machine

/-- An error response changes nothing but the response port (R161). -/
theorem State.raise_eq (s : State) (st : Status) : s.raise st = { s with respPort := s.respPort ++ [st.code] } := rfl

theorem State.respond_eq (s : State) (st : Status) (data : List Byte) :
    s.respond st data = { s with respPort := s.respPort ++ st.code :: data } := rfl

/-- Everything a command can do: refuse, or have its effect in a phase that admits it. -/
theorem exec_cases (i : Instr) (s : State) :
    (∃ st : Status, st ≠ .ok ∧ exec i s = .next (s.raise st)) ∨
      (i = .init ∧ exec i s = .next (((s.setLanes zeroLanes).setPhase .absorb).respond .ok [])) ∨
      (∃ D, i = .absorb D ∧ s.phase = .absorb ∧ D.length = s.variant.rBytes ∧
        exec i s = .next ((s.absorbBlock D).respond .ok [])) ∨
      (∃ D, i = .final D ∧ s.phase = .absorb ∧ D.length ≤ s.variant.rBytes - 1 ∧
        exec i s = .next (((s.absorbBlock (pad s.variant D)).setPhase .done).respond .ok [])) ∨
      (i = .squeeze ∧ s.phase = .done ∧ exec i s = .next (s.respond .ok (extract s.variant s.lanes))) ∨
      (i = .abort ∧ s.phase = .absorb ∧ exec i s = .next ((s.setPhase .aborted).respond .ok [])) ∨
      (i = .query ∧ exec i s = .next (s.respond .ok (wordBytes s.queryWord))) := by
  cases i with
  | init => exact .inr (.inl ⟨rfl, rfl⟩)
  | absorb D =>
    by_cases hlen : D.length = s.variant.rBytes
    · cases hphase : s.phase with
      | absorb => exact .inr (.inr (.inl ⟨D, rfl, rfl, hlen, by simp [exec, execAbsorb, absorbLenAdmitted, payloadLen, hlen, hphase]⟩))
      | _ => exact .inl ⟨.errSequence, by decide, by simp [exec, execAbsorb, absorbLenAdmitted, payloadLen, hlen, hphase]⟩
    · exact .inl ⟨.errIllegal, by decide, by simp [exec, execAbsorb, absorbLenAdmitted, payloadLen, hlen]⟩
  | final D =>
    by_cases hlen : D.length ≤ s.variant.rBytes - 1
    · cases hphase : s.phase with
      | absorb => exact .inr (.inr (.inr (.inl ⟨D, rfl, rfl, hlen, by simp [exec, execFinal, finalLenAdmitted, payloadLen, hlen, hphase]⟩)))
      | _ => exact .inl ⟨.errSequence, by decide, by simp [exec, execFinal, finalLenAdmitted, payloadLen, hlen, hphase]⟩
    · exact .inl ⟨.errIllegal, by decide, by simp [exec, execFinal, finalLenAdmitted, payloadLen, hlen]⟩
  | squeeze =>
    cases hphase : s.phase with
    | done => exact .inr (.inr (.inr (.inr (.inl ⟨rfl, rfl, by simp [exec, execSqueeze, hphase]⟩))))
    | aborted => exact .inl ⟨.errIo, by decide, by simp [exec, execSqueeze, hphase]⟩
    | _ => exact .inl ⟨.errSequence, by decide, by simp [exec, execSqueeze, hphase]⟩
  | abort =>
    cases hphase : s.phase with
    | absorb => exact .inr (.inr (.inr (.inr (.inr (.inl ⟨rfl, rfl, by simp [exec, execAbort, hphase]⟩)))))
    | _ => exact .inl ⟨.errSequence, by decide, by simp [exec, execAbort, hphase]⟩
  | query => exact .inr (.inr (.inr (.inr (.inr (.inr ⟨rfl, rfl⟩)))))

end Sys2Proof.Machine
end

