-- ==== Sys2Proof/Laws/Decode.lean ====
section
/-! SUPPORT. The fields of a command word, and what the decoder answers, once: callers cite these and do not unfold
`commandWord`, the opcode table or `decode`. -/

namespace Sys2Proof

/-! ### Admitted and encodable commands -/

@[simp] theorem wellFormed_absorb (v : Variant) (block : List Byte) :
    (Instr.absorb block).wellFormed v = true ↔ block.length = v.rBytes := by
  simp [Instr.wellFormed]

@[simp] theorem wellFormed_final (v : Variant) (msg : List Byte) :
    (Instr.final msg).wellFormed v = true ↔ msg.length ≤ v.rBytes - 1 := by
  simp [Instr.wellFormed]

theorem encodable_iff (i : Instr) : i.encodable = true ↔ i.payload.length ≤ 255 := by
  simp [Instr.encodable]

/-- Every command an instance admits fits the LEN field. -/
theorem encodable_of_wellFormed {v : Variant} {i : Instr} (h : i.wellFormed v = true) : i.encodable = true := by
  have hv : v.rBytes ≤ 136 := by cases v <;> decide
  rw [encodable_iff]
  cases i with
  | absorb block => rw [wellFormed_absorb] at h; simp only [Instr.payload]; omega
  | final msg => rw [wellFormed_final] at h; simp only [Instr.payload]; omega
  | _ => simp [Instr.payload]

/-! ### The fields of a command word -/

@[simp] theorem opField_commandWord (c0 c1 c2 c3 : Byte) : opField (commandWord c0 c1 c2 c3) = c0 := by
  apply BitVec.eq_of_getLsbD_eq
  intro i hi
  interval_cases i <;> simp [opField, commandWord]

@[simp] theorem lenField_commandWord (c0 c1 c2 c3 : Byte) : lenField (commandWord c0 c1 c2 c3) = c1.toNat := by
  unfold lenField
  congr 1
  apply BitVec.eq_of_getLsbD_eq
  intro i hi
  interval_cases i <;> simp [commandWord]

@[simp] theorem rsvdField_commandWord (c0 c1 c2 c3 : Byte) : rsvdField (commandWord c0 c1 c2 c3) = c3 ++ c2 := by
  apply BitVec.eq_of_getLsbD_eq
  intro i hi
  rw [BitVec.getLsbD_append]
  interval_cases i <;> simp [rsvdField, commandWord]

theorem commandWord_wordBytes (w : Word32) :
    commandWord (w.extractLsb' 0 8) (w.extractLsb' 8 8) (w.extractLsb' 16 8) (w.extractLsb' 24 8) = w := by
  apply BitVec.eq_of_getLsbD_eq
  intro i hi
  interval_cases i <;> simp [commandWord]

theorem wordBytes_commandWord (c0 c1 c2 c3 : Byte) : wordBytes (commandWord c0 c1 c2 c3) = [c0, c1, c2, c3] := by
  have byte (k : Nat) (c : Byte)
      (h : ∀ i, i < 8 → (commandWord c0 c1 c2 c3).getLsbD (8 * k + i) = c.getLsbD i) :
      (commandWord c0 c1 c2 c3).extractLsb' (8 * k) 8 = c := by
    apply BitVec.eq_of_getLsbD_eq
    intro i hi
    simpa [BitVec.getLsbD_extractLsb', hi] using h i hi
  simp only [wordBytes, List.cons.injEq, and_true]
  refine ⟨byte 0 c0 ?_, byte 1 c1 ?_, byte 2 c2 ?_, byte 3 c3 ?_⟩ <;>
    (intro i hi; interval_cases i <;> simp [commandWord])

@[simp] theorem wordBytes_length (w : Word32) : (wordBytes w).length = 4 := rfl

theorem lenField_le (w : Word32) : lenField w ≤ 255 := by
  have := (w.extractLsb' 8 8).isLt
  unfold lenField
  omega

/-- A word is its three fields (R62). -/
theorem commandWord_ext {a b : Word32} (hop : opField a = opField b) (hlen : lenField a = lenField b)
    (hrsvd : rsvdField a = rsvdField b) : a = b := by
  have hlen' : a.extractLsb' 8 8 = b.extractLsb' 8 8 := BitVec.eq_of_toNat_eq hlen
  apply BitVec.eq_of_getLsbD_eq
  intro i hi
  rcases (by omega : i < 8 ∨ (8 ≤ i ∧ i < 16) ∨ 16 ≤ i) with h | h | h
  · simpa [opField, h] using congrArg (·.getLsbD i) hop
  · have := congrArg (·.getLsbD (i - 8)) hlen'
    simpa [BitVec.getLsbD_extractLsb', (by omega : i - 8 < 8), (by omega : 8 + (i - 8) = i)] using this
  · have := congrArg (·.getLsbD (i - 16)) hrsvd
    simpa [rsvdField, BitVec.getLsbD_extractLsb', (by omega : i - 16 < 16), (by omega : 16 + (i - 16) = i)] using this

/-- A word whose only nonzero field is OP. -/
theorem fields_of_op (x : Byte) :
    opField (x.setWidth 32) = x ∧ lenField (x.setWidth 32) = 0 ∧ rsvdField (x.setWidth 32) = 0 := by
  refine ⟨?_, ?_, ?_⟩
  · apply BitVec.eq_of_getLsbD_eq
    intro i hi
    interval_cases i <;> simp [opField]
  · have : (x.setWidth 32).extractLsb' 8 8 = 0#8 := by
      apply BitVec.eq_of_getLsbD_eq
      intro i hi
      interval_cases i <;> simp
    unfold lenField
    rw [this]
    rfl
  · apply BitVec.eq_of_getLsbD_eq
    intro i hi
    interval_cases i <;> simp [rsvdField]

/-- The fields of a command's word (R62, R65). -/
theorem fields_of_word (i : Instr) (h : i.encodable = true) :
    opField i.word = i.op ∧ lenField i.word = i.payload.length ∧ rsvdField i.word = 0 := by
  rw [encodable_iff] at h
  have hword : i.word = commandWord i.op (BitVec.ofNat 8 i.payload.length) 0 0 := by
    simp [Instr.word, commandWord]
  rw [hword]
  simp only [opField_commandWord, lenField_commandWord, rsvdField_commandWord]
  exact ⟨trivial, by simp; omega, rfl⟩

/-! ### The rows of the opcode table -/

/-- A row whose mask is all ones fixes every field. -/
theorem fullMask_iff (cw : Word32) (x : Byte) :
    cw &&& (0xFFFFFFFF : Word32) = x.setWidth 32 ↔ rsvdField cw = 0 ∧ opField cw = x ∧ lenField cw = 0 := by
  obtain ⟨h1, h2, h3⟩ := fields_of_op x
  rw [show (0xFFFFFFFF : Word32) = BitVec.allOnes 32 from rfl, BitVec.and_allOnes]
  constructor
  · rintro rfl
    exact ⟨h3, h1, h2⟩
  · rintro ⟨hr, ho, hl⟩
    exact commandWord_ext (ho.trans h1.symm) (hl.trans h2.symm) (hr.trans h3.symm)

/-- ABSORB's and FINAL's mask leaves LEN free. -/
theorem lenMask_iff (cw : Word32) (x : Byte) :
    cw &&& (0xFFFF00FF : Word32) = x.setWidth 32 ↔ rsvdField cw = 0 ∧ opField cw = x := by
  obtain ⟨h1, h2, h3⟩ := fields_of_op x
  have ho : opField (cw &&& (0xFFFF00FF : Word32)) = opField cw := by
    apply BitVec.eq_of_getLsbD_eq
    intro i hi
    interval_cases i <;> simp [opField]
  have hr : rsvdField (cw &&& (0xFFFF00FF : Word32)) = rsvdField cw := by
    apply BitVec.eq_of_getLsbD_eq
    intro i hi
    interval_cases i <;> simp [rsvdField]
  have hl : lenField (cw &&& (0xFFFF00FF : Word32)) = 0 := by
    have : (cw &&& (0xFFFF00FF : Word32)).extractLsb' 8 8 = 0#8 := by
      apply BitVec.eq_of_getLsbD_eq
      intro i hi
      interval_cases i <;> simp
    unfold lenField
    rw [this]
    rfl
  constructor
  · intro h
    rw [h] at ho hr
    exact ⟨hr.symm.trans h3, ho.symm.trans h1⟩
  · rintro ⟨hr', ho'⟩
    exact commandWord_ext (ho.trans (ho'.trans h1.symm)) (hl.trans h2.symm) (hr.trans (hr'.trans h3.symm))

/-- What the opcode table says of a word, by its fields (R65, R67). -/
theorem decodeWord_eq (cw : Word32) (D : List Byte) :
    decodeWord cw D =
      if rsvdField cw = 0 ∧ opField cw = 0x01 ∧ lenField cw = 0 then .ok .init
      else if rsvdField cw = 0 ∧ opField cw = 0x02 then .ok (.absorb D)
      else if rsvdField cw = 0 ∧ opField cw = 0x03 then .ok (.final D)
      else if rsvdField cw = 0 ∧ opField cw = 0x04 ∧ lenField cw = 0 then .ok .squeeze
      else if rsvdField cw = 0 ∧ opField cw = 0x05 ∧ lenField cw = 0 then .ok .abort
      else if rsvdField cw = 0 ∧ opField cw = 0x06 ∧ lenField cw = 0 then .ok .query
      else .error (whyIllegal cw) := by
  simp only [← fullMask_iff, ← lenMask_iff, show (0x01 : Byte).setWidth 32 = (0x00000001 : Word32) from rfl,
    show (0x02 : Byte).setWidth 32 = (0x00000002 : Word32) from rfl,
    show (0x03 : Byte).setWidth 32 = (0x00000003 : Word32) from rfl,
    show (0x04 : Byte).setWidth 32 = (0x00000004 : Word32) from rfl,
    show (0x05 : Byte).setWidth 32 = (0x00000005 : Word32) from rfl,
    show (0x06 : Byte).setWidth 32 = (0x00000006 : Word32) from rfl]
  have beqWord : ∀ a b : Word32, (a == b) = decide (a = b) := fun _ _ => rfl
  unfold decodeWord opcodeTable
  simp only [List.find?_cons, List.find?_nil, beqWord]
  split_ifs <;> simp_all

/-! ### The decoder -/

/-- A complete request decodes by its word, and leaves the bytes after its payload (R61, R64). -/
theorem decode_request (cw : Word32) (D rest : List Byte) (hlen : D.length = lenField cw) :
    decode (wordBytes cw ++ D ++ rest) =
      match decodeWord cw D with
      | .ok i => .command i rest
      | .error why => .illegal why rest := by
  simp only [wordBytes, List.cons_append, List.nil_append, decode, commandWord_wordBytes]
  rw [if_neg (by simp [hlen])]
  have h1 : (D ++ rest).take (lenField cw) = D := by rw [← hlen]; simp
  have h2 : (D ++ rest).drop (lenField cw) = rest := by rw [← hlen]; simp
  cases hw : decodeWord cw D <;> simp only [h1, h2, hw]

/-- Any bytes hold either less than a request, or a word, its LEN payload bytes and the rest. -/
theorem request_cases (bytes : List Byte) :
    decode bytes = .incomplete ∨
      ∃ (cw : Word32) (D rest : List Byte), D.length = lenField cw ∧ bytes = wordBytes cw ++ D ++ rest := by
  match bytes with
  | [] => exact .inl rfl
  | [_] => exact .inl rfl
  | [_, _] => exact .inl rfl
  | [_, _, _] => exact .inl rfl
  | c0 :: c1 :: c2 :: c3 :: more =>
    by_cases h : more.length < lenField (commandWord c0 c1 c2 c3)
    · exact .inl (by simp only [decode, if_pos h])
    · refine .inr ⟨commandWord c0 c1 c2 c3, more.take c1.toNat, more.drop c1.toNat, ?_, ?_⟩
      · simp only [lenField_commandWord, not_lt] at h
        simp [h]
      · simp [wordBytes_commandWord]

@[simp] theorem decode_nil : decode [] = .incomplete := rfl

/-- Every request's decoding is a command or illegal, never incomplete. -/
theorem decode_request_ne_incomplete (cw : Word32) (D rest : List Byte) (hlen : D.length = lenField cw) :
    decode (wordBytes cw ++ D ++ rest) ≠ .incomplete := by
  rw [decode_request cw D rest hlen]
  split <;> simp

end Sys2Proof
end

