-- ==== Sys2Proof/Laws/PerInstr.lean ====
section
/-! SUPPORT. Facts about every command, one lemma per constructor (LAWS.json). -/

/-- "the host always knows the request's length: `4 + LEN` bytes" (R64, R70). -/
def Sys2Proof.Laws.RequestLength.Statement (i : Sys2Proof.Instr) : Prop :=
  (Sys2Proof.encode i).length = 4 + i.payload.length

theorem Sys2Proof.Laws.RequestLength.init : Sys2Proof.Laws.RequestLength.Statement .init := rfl

theorem Sys2Proof.Laws.RequestLength.absorb (block : List Sys2Proof.Byte) :
    Sys2Proof.Laws.RequestLength.Statement (.absorb block) := by
  simp [Statement, Sys2Proof.encode, Sys2Proof.wordBytes]; omega

theorem Sys2Proof.Laws.RequestLength.final (msg : List Sys2Proof.Byte) :
    Sys2Proof.Laws.RequestLength.Statement (.final msg) := by
  simp [Statement, Sys2Proof.encode, Sys2Proof.wordBytes]; omega

theorem Sys2Proof.Laws.RequestLength.squeeze : Sys2Proof.Laws.RequestLength.Statement .squeeze := rfl

theorem Sys2Proof.Laws.RequestLength.abort : Sys2Proof.Laws.RequestLength.Statement .abort := rfl

theorem Sys2Proof.Laws.RequestLength.query : Sys2Proof.Laws.RequestLength.Statement .query := rfl
end

