-- ==== Sys2Proof/Laws/Ports.lean ====
section
/-! SUPPORT. What one step can do, once: the cases of `step`, by what the ports hold. -/

namespace Sys2Proof.Machine

/-! ### Delivering -/

theorem State.deliver_ready {s : State} {b : Byte} {bs : List Byte} (hport : s.respPort = b :: bs)
    (hready : s.respReady = true) :
    s.deliver = { s with respPort := bs, received := s.received ++ [b] } := by
  simp [State.deliver, hport, hready]

theorem State.deliver_held {s : State} (hready : s.respReady = false) : s.deliver = s := by
  unfold State.deliver
  split <;> simp [hready]

/-- Delivering only moves a byte from the response port to the host. -/
theorem State.deliver_frame (s : State) :
    s.deliver.lanes = s.lanes ∧ s.deliver.phase = s.phase ∧ s.deliver.variant = s.variant ∧
      s.deliver.parser = s.parser ∧ s.deliver.cmdPort = s.cmdPort ∧ s.deliver.respReady = s.respReady ∧
      s.deliver.received ++ s.deliver.respPort = s.received ++ s.respPort ∧
      s.deliver.respPort.length ≤ s.respPort.length := by
  unfold State.deliver
  split
  · simp
  · rename_i b rest hport
    split <;> simp [hport]

/-! ### Stepping -/

/-- While a response is pending, a step delivers. -/
theorem step_pending {s : State} (hport : s.respPort ≠ []) : step s = .next s.deliver := by
  unfold step
  split
  · rfl
  · exact absurd ‹_› hport

/-- With no response pending and no complete request, a step takes the bytes offered and waits. -/
theorem step_incomplete {s : State} (hport : s.respPort = [])
    (hdec : decode (s.parser ++ s.cmdPort) = .incomplete) : step s = .next s.gather := by
  unfold step
  simp [hport, hdec]

/-- A complete request with no command is answered ERR_ILLEGAL. -/
theorem step_illegal {s : State} {why : IllegalWord} {rest : List Byte} (hport : s.respPort = [])
    (hdec : decode (s.parser ++ s.cmdPort) = .illegal why rest) :
    step s = .next ((s.take rest).raise .errIllegal) := by
  unfold step
  simp [hport, hdec]

/-- A complete request for a command runs it. -/
theorem step_command {s : State} {i : Instr} {rest : List Byte} (hport : s.respPort = [])
    (hdec : decode (s.parser ++ s.cmdPort) = .command i rest) : step s = exec i (s.take rest) := by
  unfold step
  simp [hport, hdec]

/-- Everything a step can do. -/
theorem step_cases (s : State) :
    (s.respPort ≠ [] ∧ step s = .next s.deliver) ∨
      (s.respPort = [] ∧ decode (s.parser ++ s.cmdPort) = .incomplete ∧ step s = .next s.gather) ∨
      (s.respPort = [] ∧ ∃ why rest, decode (s.parser ++ s.cmdPort) = .illegal why rest ∧
        step s = .next ((s.take rest).raise .errIllegal)) ∨
      (s.respPort = [] ∧ ∃ i rest, decode (s.parser ++ s.cmdPort) = .command i rest ∧
        step s = exec i (s.take rest)) := by
  by_cases hport : s.respPort = []
  · cases hdec : decode (s.parser ++ s.cmdPort) with
    | incomplete => exact .inr (.inl ⟨hport, rfl, step_incomplete hport hdec⟩)
    | illegal why rest => exact .inr (.inr (.inl ⟨hport, why, rest, rfl, step_illegal hport hdec⟩))
    | command i rest => exact .inr (.inr (.inr ⟨hport, i, rest, rfl, step_command hport hdec⟩))
  · exact .inl ⟨hport, step_pending hport⟩

/-- An idle core stays as it is: nothing is offered, nothing is pending (R173). -/
theorem step_idle {s : State} (hparser : s.parser = []) (hcmd : s.cmdPort = []) (hport : s.respPort = []) :
    step s = .next s := by
  rw [step_incomplete hport (by rw [hparser, hcmd]; rfl)]
  unfold State.gather
  rw [State.requestBytes_eq, hparser, hcmd]
  congr 1
  cases s
  simp_all

end Sys2Proof.Machine
end

