-- ==== Sys2Proof/Laws/System.lean ====
section
/-! SUPPORT. What acting on one instance of a system does, once. -/

namespace Sys2Proof.Machine

/-- Where the instance's own action answers a next state, the system has that state at `k` and is otherwise as it was. -/
theorem onInstance_next {f : State → Host.Outcome State Fault Refusal} {sys : List State} {k : Nat} {s t : State}
    (hk : sys[k]? = some s) (hf : f s = .next t) : onInstance f sys k = .next (sys.set k t) := by
  simp [onInstance, hk, hf]

/-- Nothing happens at an instance that the system does not have. -/
theorem onInstance_absent {f : State → Host.Outcome State Fault Refusal} {sys : List State} {k : Nat}
    (hk : sys[k]? = none) : onInstance f sys k = .next sys := by
  simp [onInstance, hk]

/-- An event of a system is the event of its target, on that instance alone. -/
theorem actSystem_eq (e : Safety.SystemEvent) (sys : List State) :
    Safety.actSystem e sys = onInstance (Safety.act e.event) sys e.target := by
  obtain ⟨k, event⟩ := e
  cases event <;> rfl

@[simp] theorem systemReset_length (built : List (Variant × Lanes)) : (systemReset built).length = built.length := by
  simp [systemReset]

end Sys2Proof.Machine
end

