-- ==== Sys2Proof/Tests/Slice0.lean ====
section
/-! SUPPORT. Tests: expected values come from the spec's tables, its encodings and `95_test_vectors.md`; and for each
obligation with hypotheses a witness that meets them. -/

-- One theorem at a time: the waiting threads of many kernel evaluations need more memory than the check gives.
set_option Elab.async false

namespace Sys2Proof.Tests

open Sys2Proof.Machine Sys2Proof.Safety

/-! ### Helpers -/

def sampleLanes : Lanes := Vector.ofFn fun i : Fin 25 => BitVec.ofNat 64 i.val

/-- A state in a phase with a request offered. -/
def offered (v : Variant) (p : Phase) (A : Lanes) (bytes : List Byte) : State :=
  { State.resetWith v A with phase := p, cmdPort := bytes }

/-- The response port after one step. -/
def response (o : Host.Outcome State Fault Refusal) : Option (List Byte × Phase × List Byte) :=
  match o with
  | .next t => some (t.respPort, t.phase, t.cmdPort)
  | .fault _ => none
  | .refused _ => none

/-! ### WellFormed refuses each ill-formed term (R65, R66) -/

theorem test_wf_absorb_short_refused :
    (Instr.absorb (List.replicate 135 0)).wellFormed .keccak256 = false := by decide +kernel
theorem test_wf_absorb_other_variant_refused :
    (Instr.absorb (List.replicate 136 0)).wellFormed .keccak512 = false := by decide +kernel
theorem test_wf_absorb_full_admitted :
    (Instr.absorb (List.replicate 72 0)).wellFormed .keccak512 = true := by decide
theorem test_wf_final_full_block_refused :
    (Instr.final (List.replicate 72 0)).wellFormed .keccak512 = false := by decide
theorem test_wf_final_longest_admitted :
    (Instr.final (List.replicate 135 0)).wellFormed .keccak256 = true := by decide +kernel
theorem test_encodable_refuses_256 : (Instr.final (List.replicate 256 0)).encodable = false := by decide +kernel

/-! ### Words written out from R62 to R65 -/

theorem test_decode_init : decode [0x01, 0x00, 0x00, 0x00, 0xFF] = .command .init [0xFF] := by decide
theorem test_decode_absorb :
    decode ([0x02, 0x88, 0x00, 0x00] ++ List.replicate 136 0x61) =
      .command (.absorb (List.replicate 136 0x61)) [] := by decide +kernel
theorem test_decode_final :
    decode [0x03, 0x02, 0x00, 0x00, 0x61, 0x62, 0x04] = .command (.final [0x61, 0x62]) [0x04] := by decide
theorem test_decode_squeeze : decode [0x04, 0x00, 0x00, 0x00] = .command .squeeze [] := by decide
theorem test_decode_abort : decode [0x05, 0x00, 0x00, 0x00] = .command .abort [] := by decide
theorem test_decode_query : decode [0x06, 0x00, 0x00, 0x00] = .command .query [] := by decide
theorem test_decode_zero_word : decode [0x00, 0x00, 0x00, 0x00] = .illegal .reservedOp [] := by decide
theorem test_decode_op_ff : decode [0xFF, 0x00, 0x00, 0x00] = .illegal .reservedOp [] := by decide
theorem test_decode_rsvd_bit_16 : decode [0x01, 0x00, 0x01, 0x00] = .illegal .reservedBits [] := by decide
theorem test_decode_rsvd_bit_31 : decode [0x06, 0x00, 0x00, 0x80] = .illegal .reservedBits [] := by decide
theorem test_decode_init_len_1 : decode [0x01, 0x01, 0x00, 0x00, 0x07, 0x06] = .illegal .lenNotZero [0x06] := by
  decide
theorem test_decode_short_word : decode [0x01, 0x00, 0x00] = .incomplete := by decide
theorem test_decode_short_payload : decode [0x03, 0x02, 0x00, 0x00, 0x61] = .incomplete := by decide
theorem test_encode_final : encode (.final [0x61]) = [0x03, 0x01, 0x00, 0x00, 0x61] := by decide
theorem test_encode_absorb_word :
    (Instr.absorb (List.replicate 136 0)).word = 0x00008802 ∧ (Instr.absorb (List.replicate 72 0)).word = 0x00004802 := by
  decide +kernel
theorem test_table_words :
    decodeTableWord 32 1 = some .init ∧ decodeTableWord 32 2 = some (.absorb []) ∧
      decodeTableWord 32 3 = some (.final []) ∧ decodeTableWord 32 0x0203 = some (.final [0, 0]) ∧
      decodeTableWord 32 4 = some .squeeze ∧ decodeTableWord 32 5 = some .abort ∧
      decodeTableWord 32 6 = some .query ∧ decodeTableWord 32 7 = none := by decide

/-! ### The permutation (95_test_vectors.md 2.1 to 2.5) -/

theorem test_theta : theta sampleLanes =
    #v[0x1A, 0x9, 0xD, 0x1D, 0x2F, 0x1F, 0xE, 0x8, 0x16, 0x22, 0x10, 0x3, 0x3, 0x13, 0x25, 0x15, 0x18, 0x1E, 0xC, 0x38,
      0xE, 0x1D, 0x19, 0x9, 0x33] := by decide +kernel
theorem test_theta_rotation_wraps :
    (theta ((Vector.replicate 25 0#64 : Lanes).set 1 0x8000000000000000))[5] = 0x1 := by decide +kernel
theorem test_rhoPi : rhoPi sampleLanes =
    #v[0x0, 0x0000600000000000, 0x0000600000000000, 0x2400000, 0x60000, 0x30000000, 0x900000, 0x50,
      0x0002000000000000, 0xC000000000000002, 0x2, 0x1C0, 0x1A000000, 0x1300, 0x500000, 0x20000000, 0x0000005000000000,
      0x2C00, 0x88000, 0x1700000000000000, 0x8000000000000000, 0x0400000000000000, 0x0000070000000000,
      0x00001E0000000000, 0x54] := by decide +kernel
theorem test_chi : chi sampleLanes =
    #v[0x2, 0x0, 0x6, 0x3, 0x5, 0x4, 0xE, 0x6, 0xC, 0xB, 0xE, 0xA, 0xE, 0xD, 0xF, 0xE, 0x12, 0x10, 0x1E, 0x3, 0x16, 0x14,
      0x1E, 0x13, 0x19] := by decide +kernel
theorem test_round : (keccakRound sampleLanes 0)[0] = 0x000018000000001B ∧
    (keccakRound sampleLanes 0)[24] = 0x0B00000000000074 := by decide +kernel

/-! ### The codec and the padding (95_test_vectors.md 3, 4) -/

theorem test_le64 : le64 0xFF 0 0 0 0 0 0 0x80 = 0x80000000000000FF := by decide
theorem test_bytes64 : bytes64 0x0123456789ABCDEF = [0xEF, 0xCD, 0xAB, 0x89, 0x67, 0x45, 0x23, 0x01] := by decide
theorem test_absorbXor_last_rate_lane :
    (absorbXor .keccak256 (Vector.replicate 25 0#64) ((List.range 136).map (BitVec.ofNat 8)))[16] =
      0x8786858483828180 := by decide +kernel
theorem test_absorbXor_capacity :
    (absorbXor .keccak512 (Vector.replicate 25 0#64) ((List.range 72).map (BitVec.ofNat 8)))[9] = 0 := by decide +kernel
theorem test_extract :
    extract .keccak256 (sampleLanes.set 0 0x0123456789ABCDEF) =
      [0xEF, 0xCD, 0xAB, 0x89, 0x67, 0x45, 0x23, 0x01, 1, 0, 0, 0, 0, 0, 0, 0, 2, 0, 0, 0, 0, 0, 0, 0, 3, 0, 0, 0, 0, 0, 0,
        0] := by decide +kernel
theorem test_memRead_two_bytes : memRead (sampleLanes.set 1 0x0102) 8 2 = some 0x0102 := by decide +kernel
theorem test_memRead_past_end : memRead sampleLanes 199 2 = none := by decide
theorem test_memWrite_across_lanes :
    (memWrite sampleLanes 7 2 0xBBAA).map (fun A => (A[0], A[1])) = some (0xAA00000000000000, 0xBB) := by decide +kernel
theorem test_pad_empty : pad .keccak256 [] = 0x01 :: List.replicate 134 0x00 ++ [0x80] := by decide +kernel
theorem test_pad_both_markers :
    pad .keccak512 (List.replicate 71 0x55) = List.replicate 71 0x55 ++ [0x81] := by decide +kernel

/-! ### One step on each command (95_test_vectors.md 5; R130) -/

theorem test_step_init_in_done :
    response (step (offered .keccak256 .done sampleLanes [0x01, 0, 0, 0])) = some ([0x00], .absorb, []) := by decide
theorem test_step_absorb :
    response (step (offered .keccak256 .absorb sampleLanes ([0x02, 0x88, 0, 0] ++ List.replicate 136 0))) =
      some ([0x00], .absorb, []) := by decide +kernel
theorem test_step_absorb_in_idle :
    response (step (offered .keccak256 .idle sampleLanes ([0x02, 0x88, 0, 0] ++ List.replicate 136 0))) =
      some ([0x02], .idle, []) := by decide +kernel
theorem test_step_absorb_wrong_variant :
    response (step (offered .keccak256 .absorb sampleLanes ([0x02, 0x48, 0, 0] ++ List.replicate 72 0 ++ [9]))) =
      some ([0x01], .absorb, [9]) := by decide +kernel
theorem test_step_final :
    response (step (offered .keccak512 .absorb sampleLanes [0x03, 0x01, 0, 0, 0x61, 0x04])) =
      some ([0x00], .done, [0x04]) := by decide +kernel
theorem test_step_final_twice :
    response (step (offered .keccak512 .done sampleLanes [0x03, 0, 0, 0])) = some ([0x02], .done, []) := by decide +kernel
theorem test_step_squeeze_in_aborted :
    response (step (offered .keccak256 .aborted sampleLanes [0x04, 0, 0, 0])) = some ([0x03], .aborted, []) := by decide
theorem test_step_squeeze_malformed_in_aborted :
    response (step (offered .keccak256 .aborted sampleLanes [0x04, 0x01, 0, 0, 7])) = some ([0x01], .aborted, []) := by
  decide
theorem test_step_abort :
    response (step (offered .keccak256 .absorb sampleLanes [0x05, 0, 0, 0])) = some ([0x00], .aborted, []) := by decide
theorem test_step_abort_in_done :
    response (step (offered .keccak256 .done sampleLanes [0x05, 0, 0, 0])) = some ([0x02], .done, []) := by decide
theorem test_step_query_256 :
    response (step (offered .keccak256 .absorb sampleLanes [0x06, 0, 0, 0])) =
      some ([0x00, 0x01, 0x00, 0x88, 0x20], .absorb, []) := by decide
theorem test_step_query_512 :
    response (step (offered .keccak512 .idle sampleLanes [0x06, 0, 0, 0])) =
      some ([0x00, 0x00, 0x01, 0x48, 0x40], .idle, []) := by decide
theorem test_step_waits_for_payload :
    response (step (offered .keccak256 .absorb sampleLanes [0x03, 0x02, 0, 0, 0x61])) = some ([], .absorb, []) := by
  decide
theorem test_fetch_word_runs_first :
    response (step (State.reset.withFetchWord 32 6)) = some ([0x00, 0x00, 0x00, 0x88, 0x20], .idle, []) := by decide

/-! ### The assembler (R71, R72) -/

theorem test_assemble_final_repetition :
    assembleText .keccak512 ['F', 'I', 'N', 'A', 'L', ' ', '6', '1', '*', '3', ',', '0', '2', ' ', ';', 'x'] =
      some [0x03, 0x04, 0, 0, 0x61, 0x61, 0x61, 0x02] := by decide +kernel
theorem test_assemble_absorb_short_rejected :
    assembleText .keccak256 ['A', 'B', 'S', 'O', 'R', 'B', ' ', '6', '1'] = none := by decide +kernel
theorem test_assemble_raw :
    assembleText .keccak256 ['R', 'A', 'W', ' ', '0', 'x', '8', '0', '0', '0', '0', '0', '0', '6'] =
      some [0x06, 0, 0, 0x80] := by decide +kernel
theorem test_assemble_hash_quoted :
    assembleText .keccak256 (['H', 'A', 'S', 'H', ' ', quoteChar, 'a', 'b', quoteChar]) =
      some [0x01, 0, 0, 0, 0x03, 0x02, 0, 0, 0x61, 0x62, 0x04, 0, 0, 0] := by decide +kernel

/-! ### Witnesses: a state and operands that meet each obligation's hypotheses -/

theorem witness_RotlMovesBits : ∃ n i n' i' : Nat, (1 ≤ n ∧ n ≤ 63 ∧ i < 64) ∧ n' < 64 ∧ i' < 64 ∧ i < n ∧ n' ≤ i' :=
  ⟨63, 0, 0, 63, by decide⟩
theorem witness_ChiIsBitSlicedByRow : ∃ z z' : Nat, z < 64 ∧ z = 0 ∧ z' < 64 ∧ z' = 63 := ⟨0, 63, by decide⟩
theorem witness_IotaChangesLaneZeroOnly : ∃ i : Fin 25, i ≠ 0 := ⟨24, by decide⟩
theorem witness_SequentialCommandsAgree_empty : ∃ (v : Variant) (D : List Byte), D.length ≤ v.rBytes - 1 ∧ D = [] :=
  ⟨.keccak256, [], by decide⟩
theorem witness_SequentialCommandsAgree_longest :
    ∃ (v : Variant) (D : List Byte), D.length ≤ v.rBytes - 1 ∧ D.length = 71 :=
  ⟨.keccak512, List.replicate 71 0, by decide⟩
theorem witness_SbWriteChangesOneByte : ∃ (a b : Fin 200) (l : Fin 25), a ≠ b ∧ l.val ≠ b.val / 8 ∧ a.val / 8 = b.val / 8 :=
  ⟨192, 199, 23, by decide⟩
theorem witness_MemReadAndMemWrite : ∃ (addr n : Nat) (k b : Fin 200), addr + n ≤ 200 ∧ addr ≤ k.val ∧ k.val < addr + n ∧
    k = 199 ∧ ¬(addr ≤ b.val ∧ b.val < addr + n) := ⟨196, 4, 199, 195, by decide⟩
theorem witness_AbsorbXorByBytes :
    ∃ (v : Variant) (P : List Byte) (b b' : Fin 200), P.length = v.rBytes ∧ b.val < v.rBytes ∧ ¬b'.val < v.rBytes ∧
      b'.val = b.val + 1 :=
  ⟨.keccak256, List.replicate 136 0x61, 135, 136, by decide +kernel⟩
theorem witness_AbsorbXorTwiceRestores : ∃ l : Fin 25, Variant.keccak256.rLanes ≤ l.val := ⟨17, by decide⟩
theorem witness_PadBytes_empty : ∃ (v : Variant) (D : List Byte) (k : Nat), D.length ≤ v.rBytes - 1 ∧ k < v.rBytes ∧
    k = D.length := ⟨.keccak256, [], 0, by decide⟩
theorem witness_PadBytes_longest : ∃ (v : Variant) (D : List Byte) (k : Nat), D.length ≤ v.rBytes - 1 ∧ k < v.rBytes ∧
    k = D.length ∧ k = v.rBytes - 1 := ⟨.keccak512, List.replicate 71 0x55, 71, by decide⟩
theorem witness_DecodeOfEncode_absorb : ∃ (v : Variant) (i : Instr), i.wellFormed v = true ∧ i.payload.length = 136 :=
  ⟨.keccak256, .absorb (List.replicate 136 0), by decide +kernel⟩
theorem witness_DecodeOfEncode_final : ∃ (v : Variant) (i : Instr), i.wellFormed v = true ∧ i.payload.length = 71 :=
  ⟨.keccak512, .final (List.replicate 71 0), by decide⟩
theorem witness_EncodeOfDecode : ∃ (bytes : List Byte) (i : Instr) (rest : List Byte), decode bytes = .command i rest :=
  ⟨[0x03, 0x01, 0, 0, 0x61, 0x05], .final [0x61], [0x05], by decide⟩
theorem witness_LegalWordsAreTheAdmittedCommands :
    ∃ (v : Variant) (q q' : Request), q.framed = true ∧ legal v q.word = true ∧ q'.framed = true ∧
      legal v q'.word = false :=
  ⟨.keccak256, ⟨0x00000203, [1, 2]⟩, ⟨0x00000101, [1]⟩, by decide⟩
theorem witness_StepRunsTheDecodedCommand : ∃ (s : State) (i : Instr) (rest : List Byte),
    s.respPort = [] ∧ decode (s.parser ++ s.cmdPort) = .command i rest :=
  ⟨{ offered .keccak256 .absorb sampleLanes [0, 0x61, 0x05] with parser := [0x03, 0x01, 0] }, .final [0x61], [0x05],
    by decide⟩
theorem witness_StepRunsTheTableWord : ∃ (nbits w : Nat) (i : Instr), decodeTableWord nbits w = some i :=
  ⟨32, 0x0103, .final [0], by decide⟩
theorem witness_RequestIsAnsweredAsTheRulesSay : ∃ (s : State) (q : Request) (rest : List Byte),
    HoldsRequest s q rest ∧ verdict s.variant q.word s.phase = .ok :=
  ⟨offered .keccak512 .absorb sampleLanes [0x03, 0x01, 0, 0, 0x61, 0x05], ⟨0x00000103, [0x61]⟩, [0x05], by decide⟩
theorem witness_IllegalWordIsRefusedWithoutEffect : ∃ (s : State) (q : Request) (rest : List Byte),
    HoldsRequest s q rest ∧ legal s.variant q.word = false :=
  ⟨offered .keccak256 .aborted sampleLanes [0x04, 0x01, 0, 0, 0x07, 0x06], ⟨0x00000104, [0x07]⟩, [0x06], by decide⟩
theorem witness_RejectedRequestWritesNoState : ∃ (s t : State) (q : Request) (rest : List Byte),
    HoldsRequest s q rest ∧ step s = .next t ∧ t.respPort.head? ≠ some 0x00 :=
  ⟨offered .keccak256 .aborted sampleLanes [0x04, 0, 0, 0],
    { State.resetWith .keccak256 sampleLanes with phase := .aborted, respPort := [0x03] }, ⟨0x00000004, []⟩, [],
    by decide, by rfl, by decide⟩
theorem witness_RequestAndResponseLengths : ∃ (s t : State) (q : Request) (rest : List Byte),
    HoldsRequest s q rest ∧ step s = .next t ∧ t.respPort.length = 5 :=
  ⟨offered .keccak256 .aborted sampleLanes [0x06, 0, 0, 0],
    { State.resetWith .keccak256 sampleLanes with phase := .aborted, respPort := [0x00, 0x03, 0x00, 0x88, 0x20] },
    ⟨0x00000006, []⟩, [], by decide, by rfl, by decide⟩
theorem witness_IncompleteRequestWaits_word : ∃ s : State, s.respPort = [] ∧ (s.parser ++ s.cmdPort).length = 3 :=
  ⟨offered .keccak256 .idle sampleLanes [0x06, 0, 0], by decide⟩
theorem witness_IncompleteRequestWaits_payload : ∃ (s : State) (c0 c1 c2 c3 : Byte) (D : List Byte), s.respPort = [] ∧
    s.parser ++ s.cmdPort = c0 :: c1 :: c2 :: c3 :: D ∧ D.length < c1.toNat ∧ D.length = 1 :=
  ⟨offered .keccak256 .absorb sampleLanes [0x03, 0x02, 0, 0, 0x61], 0x03, 0x02, 0, 0, [0x61], by decide⟩
theorem witness_IncompleteRequestWaits_events : ∃ es : List Event, (∀ e ∈ es, e = .core ∨ ∃ on : Bool, e = .ready on) ∧
    es = [.core, .ready false, .core] :=
  ⟨[.core, .ready false, .core], by simp, rfl⟩
theorem witness_ResponseComesBeforeTheNextRequest : ∃ (s s' : State) (b : Byte) (bs : List Byte),
    s.respPort = b :: bs ∧ s.respReady = true ∧ s'.respPort = b :: bs ∧ s'.respReady = false :=
  ⟨{ State.reset with respPort := [0x00, 0x01] }, { State.reset with respPort := [0x00, 0x01], respReady := false },
    0x00, [0x01], by decide⟩
theorem witness_InitStartsAMessage_otherWord : ∃ (s : State) (q : Request) (rest : List Byte),
    HoldsRequest s q rest ∧ opField q.word = 0x01 ∧ q.word ≠ 0x00000001 :=
  ⟨offered .keccak256 .idle sampleLanes [0x01, 0x01, 0, 0, 0x09], ⟨0x00000101, [0x09]⟩, [], by decide⟩
theorem witness_AbsorbPermutesOneBlock : ∃ (s s' : State) (block : List Byte),
    block.length = s.variant.rBytes ∧ s.phase = .absorb ∧ block.length = s'.variant.rBytes ∧ s'.phase ≠ .absorb :=
  ⟨offered .keccak512 .absorb sampleLanes [], offered .keccak512 .aborted sampleLanes [], List.replicate 72 0x61,
    by decide +kernel⟩
theorem witness_AbsorbPermutesOneBlock_otherWord : ∃ (s : State) (q : Request) (rest : List Byte),
    HoldsRequest s q rest ∧ opField q.word = 0x02 ∧ s.variant = .keccak512 ∧ q.word ≠ 0x00004802 :=
  ⟨offered .keccak512 .absorb sampleLanes [0x02, 0, 0, 0], ⟨0x00000002, []⟩, [], by decide⟩
theorem witness_FinalClosesTheMessage_empty : ∃ (s s' : State) (msg : List Byte),
    msg.length ≤ s.variant.rBytes - 1 ∧ s.phase = .absorb ∧ msg.length ≤ s'.variant.rBytes - 1 ∧ s'.phase ≠ .absorb ∧
      msg = [] :=
  ⟨offered .keccak256 .absorb sampleLanes [], offered .keccak256 .done sampleLanes [], [], by decide⟩
theorem witness_FinalClosesTheMessage_longest : ∃ (s : State) (msg : List Byte),
    s.phase = .absorb ∧ msg.length ≤ s.variant.rBytes - 1 ∧ msg.length = 135 :=
  ⟨offered .keccak256 .absorb sampleLanes [], List.replicate 135 0x61, by decide +kernel⟩
theorem witness_FinalClosesTheMessage_otherWord : ∃ (s : State) (q : Request) (rest : List Byte),
    HoldsRequest s q rest ∧ opField q.word = 0x03 ∧ ¬(lenField q.word < s.variant.rBytes ∧ rsvdField q.word = 0) ∧
      lenField q.word = s.variant.rBytes :=
  ⟨offered .keccak512 .absorb sampleLanes ([0x03, 0x48, 0, 0] ++ List.replicate 72 0),
    ⟨0x00004803, List.replicate 72 0⟩, [], by decide +kernel⟩
theorem witness_SqueezeReturnsTheDigest : ∃ s s' s'' : State,
    s.phase = .done ∧ s'.phase = .aborted ∧ (s''.phase = .idle ∨ s''.phase = .absorb) :=
  ⟨offered .keccak256 .done sampleLanes [], offered .keccak256 .aborted sampleLanes [],
    offered .keccak512 .idle sampleLanes [], by decide⟩
theorem witness_SqueezeReturnsTheDigest_otherWord : ∃ (s : State) (q : Request) (rest : List Byte),
    HoldsRequest s q rest ∧ opField q.word = 0x04 ∧ q.word ≠ 0x00000004 :=
  ⟨offered .keccak256 .aborted sampleLanes [0x04, 0x01, 0, 0, 0x09], ⟨0x00000104, [0x09]⟩, [], by decide⟩
theorem witness_AbortKeepsTheLanes : ∃ s s' : State, s.phase = .absorb ∧ s'.phase ≠ .absorb :=
  ⟨offered .keccak512 .absorb sampleLanes [], offered .keccak512 .idle sampleLanes [], by decide⟩
theorem witness_AbortKeepsTheLanes_otherWord : ∃ (s : State) (q : Request) (rest : List Byte),
    HoldsRequest s q rest ∧ opField q.word = 0x05 ∧ q.word ≠ 0x00000005 :=
  ⟨offered .keccak256 .absorb sampleLanes [0x05, 0, 0x01, 0], ⟨0x00010005, []⟩, [], by decide⟩
theorem witness_AbortKeepsTheLanes_aborted : ∃ (s t : State) (i : Instr) (block msg : List Byte), s.phase = .aborted ∧
    block.length = s.variant.rBytes ∧ msg.length ≤ s.variant.rBytes - 1 ∧ msg.length = 71 ∧ i ≠ .init ∧ exec i s = .next t :=
  ⟨offered .keccak512 .aborted sampleLanes [],
    { State.resetWith .keccak512 sampleLanes with phase := .aborted, respPort := [0x03] }, .squeeze,
    List.replicate 72 0, List.replicate 71 0, by decide, by decide, by decide, by decide, by decide, by rfl⟩
theorem witness_QueryReportsPhaseAndVariant_otherWord : ∃ (s : State) (q : Request) (rest : List Byte),
    HoldsRequest s q rest ∧ opField q.word = 0x06 ∧ q.word ≠ 0x00000006 :=
  ⟨offered .keccak256 .idle sampleLanes [0x06, 0, 0, 0x80], ⟨0x80000006, []⟩, [], by decide⟩
theorem witness_WrongLengthIsIllegalInEveryPhase : ∃ (s : State) (block msg : List Byte),
    block.length ≠ s.variant.rBytes ∧ s.variant.rBytes ≤ msg.length ∧ msg.length = 136 :=
  ⟨offered .keccak256 .idle sampleLanes [], List.replicate 72 0, List.replicate 136 0, by decide⟩
theorem witness_RepeatingACommand : ∃ (i : Instr) (s t : State),
    (i = .init ∨ i = .squeeze ∨ i = .query) ∧ exec i s = .next t ∧ i ≠ .init :=
  ⟨.query, State.reset, { State.reset with respPort := [0x00, 0x00, 0x00, 0x88, 0x20] }, by decide, by rfl, by decide⟩
theorem witness_RepeatingACommand_abort : ∃ (s t : State), exec .abort s = .next t ∧ t.phase = .aborted :=
  ⟨offered .keccak256 .absorb sampleLanes [],
    { State.resetWith .keccak256 sampleLanes with phase := .aborted, respPort := [0x00] }, by rfl, by decide⟩
theorem witness_RepeatingACommand_final : ∃ (s t : State) (msg : List Byte),
    msg.length ≤ s.variant.rBytes - 1 ∧ s.phase = .absorb ∧ exec (.final msg) s = .next t ∧ t.phase = .done :=
  ⟨offered .keccak256 .absorb sampleLanes [],
    { State.resetWith .keccak256 (keccakF (absorbXor .keccak256 sampleLanes (pad .keccak256 []))) with
      phase := .done, respPort := [0x00] }, [], by decide, by decide, by rfl, by rfl⟩
theorem witness_OnlyInitAbsorbFinalWriteLanes : ∃ s t : State, step s = .next t ∧ t.lanes ≠ s.lanes :=
  ⟨offered .keccak256 .done sampleLanes [0x01, 0, 0, 0],
    { State.resetWith .keccak256 zeroLanes with phase := .absorb, respPort := [0x00] }, by rfl, by decide⟩
theorem witness_PhaseChangesOnlyAsTheTableSays : ∃ s t : State, step s = .next t ∧ t.phase ≠ s.phase :=
  ⟨offered .keccak256 .absorb sampleLanes [0x05, 0, 0, 0],
    { State.resetWith .keccak256 sampleLanes with phase := .aborted, respPort := [0x00] }, by rfl, by decide⟩
theorem witness_NoDigestBeforeTheFinalBlock : ∃ s t : State,
    s.respPort = [] ∧ step s = .next t ∧ 5 < t.respPort.length :=
  ⟨offered .keccak256 .done sampleLanes [0x04, 0, 0, 0],
    { State.resetWith .keccak256 sampleLanes with
      phase := .done, respPort := 0x00 :: extract .keccak256 sampleLanes }, rfl, by rfl, by decide +kernel⟩
theorem witness_SqueezeReadsOnlyTheOutputLanes : ∃ s t s' t' : State, s.phase = t.phase ∧ s.variant = t.variant ∧
    s.respPort = t.respPort ∧ (∀ l : Fin 25, l.val < s.variant.outLanes → s.lane l = t.lane l) ∧
      exec .squeeze s = .next s' ∧ exec .squeeze t = .next t' ∧ s.lanes ≠ t.lanes :=
  ⟨offered .keccak256 .done sampleLanes [], offered .keccak256 .done (sampleLanes.set 4 0) [],
    (offered .keccak256 .done sampleLanes []).respond .ok (extract .keccak256 sampleLanes),
    (offered .keccak256 .done (sampleLanes.set 4 0) []).respond .ok (extract .keccak256 (sampleLanes.set 4 0)),
    rfl, rfl, rfl, by decide +kernel, by rfl, by rfl, by decide +kernel⟩
theorem witness_VariantIsConstant : ∃ (es : List Event) (s t : State), runEvents es s = .next t :=
  ⟨[.send [0x01, 0, 0, 0], .core], State.resetOf .keccak512,
    { State.resetWith .keccak512 zeroLanes with phase := .absorb, respPort := [0x00] }, by rfl⟩
theorem witness_PortsInvIsKept : ∃ (e : Event) (s t : State), PortsInv s ∧ act e s = .next t ∧ s.parser ≠ [] :=
  ⟨.core, { State.resetOf .keccak256 with parser := [0x06, 0, 0] },
    { State.resetOf .keccak256 with parser := [0x06, 0, 0] }, by decide, by rfl, by decide⟩
theorem witness_HiddenLanesNeverReachTheHost : ∃ (es es' : List Event) (s s' : State),
    HostEquivalent s s' ∧ List.Forall₂ SameEvent es es' ∧ s.lanes ≠ s'.lanes ∧ es ≠ es' :=
  ⟨[.reset sampleLanes], [.reset zeroLanes], State.resetWith .keccak256 sampleLanes,
    State.resetWith .keccak256 zeroLanes, by decide, .cons (.reset _ _) .nil, by decide +kernel, by decide +kernel⟩
theorem witness_ResponsesAreAFunctionOfTheCommandStream : ∃ (es : List Event) (s t : State),
    noReset es = true ∧ s.parser = [] ∧ s.cmdPort = [] ∧ s.respPort = [] ∧ runEvents es s = .next t ∧
      t.received = [0x02] :=
  ⟨[.send [0x05, 0], .core, .send [0, 0], .core, .core], State.resetOf .keccak256,
    { State.resetOf .keccak256 with received := [0x02] }, by decide, rfl, rfl, rfl, by rfl, by decide⟩
theorem witness_HashProgramAnswersTheDigest : ∃ s : State, Quiet s ∧ s.phase = .aborted :=
  ⟨offered .keccak512 .aborted sampleLanes [], by decide⟩
theorem witness_AssemblerRejectsWrongLengths : ∃ (v : Variant) (i i' : Instr),
    i.wellFormed v = false ∧ i'.wellFormed v = true :=
  ⟨.keccak256, .final (List.replicate 136 0), .absorb (List.replicate 136 0), by decide +kernel⟩
theorem witness_InstancesAreIndependent : ∃ (sys : List State) (j k : Nat) (s s' : State), j ≠ k ∧ sys[j]? = some s ∧
    sys[k]? = some s' ∧ s.variant ≠ s'.variant :=
  ⟨systemReset [(.keccak256, sampleLanes), (.keccak512, sampleLanes)], 0, 1, State.resetWith .keccak256 sampleLanes,
    State.resetWith .keccak512 sampleLanes, by decide, by rfl, by rfl, by decide⟩
theorem witness_InstancesAreIndependent_built : ∃ (built : List (Variant × Lanes)) (j : Nat),
    built[j]? = some (.keccak512, sampleLanes) :=
  ⟨[(.keccak256, sampleLanes), (.keccak512, sampleLanes)], 1, by rfl⟩
theorem test_system_reset_of_one : ∃ sys' : List State,
    runSystem [⟨1, .send [0x01, 0, 0, 0]⟩, ⟨0, .send [0x06]⟩, ⟨1, .core⟩, ⟨0, .reset sampleLanes⟩]
        (systemReset [(.keccak256, sampleLanes), (.keccak512, sampleLanes)]) = .next sys' ∧
      sys'.map (fun s => (s.phase, s.cmdPort, s.respPort)) = [(.idle, [], []), (.absorb, [], [0x00])] :=
  ⟨_, by rfl, by rfl⟩

/-! ### A whole digest, last because the kernel runs 24 rounds (95_test_vectors.md 1.1) -/

theorem test_digest_empty_256 : digest .keccak256 [] =
    [0xC5, 0xD2, 0x46, 0x01, 0x86, 0xF7, 0x23, 0x3C, 0x92, 0x7E, 0x7D, 0xB2, 0xDC, 0xC7, 0x03, 0xC0, 0xE5, 0x00, 0xB6,
      0x53, 0xCA, 0x82, 0x27, 0x3B, 0x7B, 0xFA, 0xD8, 0x04, 0x5D, 0x85, 0xA4, 0x70] := by decide +kernel

end Sys2Proof.Tests
end

section
/-! The parameters of R7 and the left rotation of R11. -/

namespace Sys2Proof.Machine

/-! ### The left rotation (R11) -/

/-- In R11's range the model's rotation is the library's, whose amount is taken modulo 64. -/
theorem rotl64_eq_rotateLeft (v : Lane) {n : Nat} (hn : n < 64) : rotl64 v n = v.rotateLeft n := by
  rw [BitVec.rotateLeft_def, Nat.mod_eq_of_lt hn, rotl64]

@[simp] theorem rotl64_zero (v : Lane) : rotl64 v 0 = v := by
  simp [rotl64, BitVec.ushiftRight_eq_zero]

/-- R11's mask keeps all 64 bits of a lane. -/
theorem lane_and_mask (v : Lane) : v &&& 0xFFFFFFFFFFFFFFFF#64 = v :=
  BitVec.and_allOnes

/-- R11's bit law: a bit below `n` comes from the lane's top, any other from `n` places below. -/
theorem rotl64_getLsbD (v : Lane) {n i : Nat} (hn : n < 64) (hi : i < 64) :
    (rotl64 v n).getLsbD i = v.getLsbD ((i + 64 - n) % 64) := by
  rw [rotl64_eq_rotateLeft v hn, BitVec.getLsbD_rotateLeft_of_le hn]
  by_cases hin : i < n
  · have hsource : (i + 64 - n) % 64 = 64 - n + i := by omega
    simp [hin, hsource]
  · have hsource : (i + 64 - n) % 64 = i - n := by omega
    simp [hin, hi, hsource]

/-- Settles O3: the formula is the definition under R11's mask, which keeps every bit; the bit law is `rotl64_getLsbD`. -/
theorem rotlMovesBits : Obligations.RotlMovesBits := by
  unfold Obligations.RotlMovesBits
  refine ⟨rotl64_zero, fun v n _ _ => ?_, fun v n i => rotl64_getLsbD v⟩
  rw [lane_and_mask, rotl64]

/-! ### The parameters (R7, R8) -/

/-- R7's rate formula: `R_BYTES = 200 − 2×output_len_bytes`. -/
theorem rBytes_eq (v : Variant) : v.rBytes = stateBytes - 2 * v.outBytes := by cases v <;> rfl

/-- R7: `R_LANES = R_BYTES / 8`. -/
theorem rLanes_eq (v : Variant) : v.rLanes = v.rBytes / 8 := by cases v <;> rfl

/-- R7: `OUT_LANES = OUT_BYTES / 8`. -/
theorem outLanes_eq (v : Variant) : v.outLanes = v.outBytes / 8 := by cases v <;> rfl

/-- R8: one squeezed block holds the whole digest. -/
theorem outBytes_le_rBytes (v : Variant) : v.outBytes ≤ v.rBytes := by cases v <;> decide

/-- Settles O1: R7's definitions and R8's bound for either variant, then the constants of R6 and of R7's two columns. -/
theorem variantParameters : Obligations.VariantParameters := by
  unfold Obligations.VariantParameters
  refine ⟨fun v => ⟨rBytes_eq v, rLanes_eq v, outLanes_eq v, rfl, outBytes_le_rBytes v⟩, rfl, ?keccak256, ?keccak512⟩
  case keccak256 => decide
  case keccak512 => decide

end Sys2Proof.Machine
end

section
/-! The QUERY word (R28) and what reset leaves (R32). -/

namespace Sys2Proof.Machine

/-! ### The QUERY word (R28) -/

/-- R28's layout, from bit 31 down: OUTLEN, RATE, seven reserved bits, VARIANT, six reserved bits, PHASE. -/
theorem queryWord_eq_append (p : Phase) (v : Variant) :
    queryWord p v =
      BitVec.ofNat 8 v.outBytes ++ BitVec.ofNat 8 v.rBytes ++ 0#7 ++ BitVec.ofNat 1 v.code ++ 0#6 ++ p.code := by
  cases v <;> cases p <;> rfl

/-- R28: "the QUERY word reads `0x20880000 | PHASE` in a KECCAK256 instance". -/
theorem queryWord_keccak256 (p : Phase) : queryWord p .keccak256 = 0x20880000#32 ||| p.code.setWidth 32 := by
  cases p <;> rfl

/-- R28: "and `0x40480100 | PHASE` in a KECCAK512 instance". -/
theorem queryWord_keccak512 (p : Phase) : queryWord p .keccak512 = 0x40480100#32 ||| p.code.setWidth 32 := by
  cases p <;> rfl

/-! Each field of the word: the fields below it are skipped, and what is read is the low or the top part of the rest. -/

theorem queryWord_phase (p : Phase) (v : Variant) : (queryWord p v).extractLsb' 0 2 = p.code := by
  rw [queryWord_eq_append]
  exact BitVec.extractLsb'_append_eq_right

theorem queryWord_reserved_low (p : Phase) (v : Variant) : (queryWord p v).extractLsb' 2 6 = 0 := by
  rw [queryWord_eq_append, BitVec.extractLsb'_append_eq_of_le (by decide)]
  exact BitVec.extractLsb'_append_eq_right

theorem queryWord_variant (p : Phase) (v : Variant) :
    (queryWord p v).extractLsb' 8 1 = BitVec.ofNat 1 v.code := by
  rw [queryWord_eq_append]
  iterate 2 rw [BitVec.extractLsb'_append_eq_of_le (by decide)]
  exact BitVec.extractLsb'_append_eq_right

theorem queryWord_reserved_high (p : Phase) (v : Variant) : (queryWord p v).extractLsb' 9 7 = 0 := by
  rw [queryWord_eq_append]
  iterate 3 rw [BitVec.extractLsb'_append_eq_of_le (by decide)]
  exact BitVec.extractLsb'_append_eq_right

theorem queryWord_rate (p : Phase) (v : Variant) :
    (queryWord p v).extractLsb' 16 8 = BitVec.ofNat 8 v.rBytes := by
  rw [queryWord_eq_append]
  iterate 4 rw [BitVec.extractLsb'_append_eq_of_le (by decide)]
  exact BitVec.extractLsb'_append_eq_right

theorem queryWord_outLen (p : Phase) (v : Variant) :
    (queryWord p v).extractLsb' 24 8 = BitVec.ofNat 8 v.outBytes := by
  rw [queryWord_eq_append]
  iterate 4 rw [BitVec.extractLsb'_append_eq_of_le (by decide)]
  exact BitVec.extractLsb'_append_eq_left

/-- Settles O38: the six fields of the layout, then the closed form of either variant. -/
theorem queryWordFields : Obligations.QueryWordFields := by
  unfold Obligations.QueryWordFields
  intro s
  unfold State.queryWord
  refine ⟨⟨queryWord_phase _ _, queryWord_reserved_low _ _, queryWord_variant _ _, queryWord_reserved_high _ _,
    queryWord_rate _ _, queryWord_outLen _ _⟩, ?_⟩
  cases s.variant with
  | keccak256 => exact queryWord_keccak256 s.phase
  | keccak512 => exact queryWord_keccak512 s.phase

/-! ### Reset (R32) -/

/-- The machine's reset state is that of the built variant and the named lanes (log entries 1 and 2). -/
theorem State.reset_eq_resetWith : State.reset = State.resetWith Config.builtVariant Config.resetLanes := rfl

/-- The QUERY word depends on no lane: after reset it is that of PHASE 0 (R28, R32). -/
@[simp] theorem State.queryWord_resetWith (v : Variant) (A : Lanes) :
    (State.resetWith v A).queryWord = Machine.queryWord .idle v := rfl

/-- Settles O48: each field by its reset lemma; the QUERY word is its constant fields, as PHASE reads 0. -/
theorem resetValues : Obligations.ResetValues := by
  unfold Obligations.ResetValues
  refine ⟨⟨_, _, State.reset_eq_resetWith⟩, fun v A => ⟨State.phase_resetWith v A, State.variant_resetWith v A,
    State.parser_resetWith v A, State.cmdPort_resetWith v A, State.respPort_resetWith v A,
    State.lanes_resetWith v A, ?_⟩⟩
  rw [State.queryWord_resetWith]
  cases v with
  | keccak256 => exact queryWord_keccak256 .idle
  | keccak512 => exact queryWord_keccak512 .idle

end Sys2Proof.Machine
end

section
/-! The state byte space (R41) and the access functions over it (R42). -/

namespace Sys2Proof.Machine

/-! ### One byte of a lane (R10, R41) -/

/-- Byte `k` of a lane as a number's byte, the form in which R42 writes it. -/
theorem laneByte_eq_ofNat (v : Lane) (k : Nat) : laneByte v k = BitVec.ofNat 8 (v.toNat >>> (8 * k)) := rfl

/-- A number's byte `k` is its lane's byte `k`: the bits above the lane do not reach it. -/
theorem laneByte_ofNat (r : Nat) {k : Nat} (hk : k < 8) :
    laneByte (BitVec.ofNat 64 r) k = BitVec.ofNat 8 (r >>> (8 * k)) := by
  refine BitVec.eq_of_getLsbD_eq fun i hi => ?_
  have hbit : 8 * k + i < 64 := by omega
  rw [laneByte_getLsbD, BitVec.getLsbD_ofNat, BitVec.getLsbD_ofNat, Nat.testBit_shiftRight]
  simp only [hi, hbit, decide_true, Bool.true_and]

/-- Two lanes are equal when their 8 bytes are. -/
theorem lane_ext {v w : Lane} (h : ∀ k < 8, laneByte v k = laneByte w k) : v = w := by
  refine BitVec.eq_of_getLsbD_eq fun i hi => ?_
  have hbyte := congrArg (·.getLsbD (i % 8)) (h (i / 8) (by omega))
  have hbit : i % 8 < 8 := Nat.mod_lt i (by decide)
  simpa only [laneByte_getLsbD, hbit, Nat.div_add_mod, decide_true, Bool.true_and] using hbyte

/-- The bits of a lane whose byte `k` was written: those of the byte in its place, the lane's own elsewhere. -/
theorem setLaneByte_getLsbD (v : Lane) (k : Nat) (x : Byte) {i : Nat} (hi : i < 64) :
    (setLaneByte v k x).getLsbD i =
      if 8 * k ≤ i ∧ i < 8 * k + 8 then x.getLsbD (i - 8 * k) else v.getLsbD i := by
  have hmask : (0xFF#64).getLsbD (i - 8 * k) = decide (i - 8 * k < 8) := by
    rw [BitVec.getLsbD_ofNat, Nat.testBit_two_pow_sub_one 8]
    simp only [Bool.and_eq_right_iff_imp, decide_eq_true_eq]
    omega
  unfold setLaneByte
  simp only [BitVec.getLsbD_or, BitVec.getLsbD_and, BitVec.getLsbD_not, BitVec.getLsbD_shiftLeft,
    BitVec.getLsbD_setWidth, hmask]
  by_cases hlo : 8 * k ≤ i
  · by_cases hhi : i < 8 * k + 8
    · have hin : i - 8 * k < 8 := by omega
      have hlane : i - 8 * k < 64 := by omega
      simp [hi, hlo, hhi, hin, hlane, Nat.not_lt.mpr hlo]
    · have hout : 8 ≤ i - 8 * k := by omega
      simp [hi, hhi, Nat.not_lt.mpr hout, BitVec.getLsbD_of_ge x _ hout]
  · simp [hi, hlo, Nat.lt_of_not_le hlo]

theorem laneByte_setLaneByte_same (v : Lane) (x : Byte) {k : Nat} (hk : k < 8) :
    laneByte (setLaneByte v k x) k = x := by
  refine BitVec.eq_of_getLsbD_eq fun i hi => ?_
  have hbit : 8 * k + i < 64 := by omega
  rw [laneByte_getLsbD, setLaneByte_getLsbD v k x hbit, if_pos (by omega), Nat.add_sub_cancel_left]
  simp only [hi, decide_true, Bool.true_and]

theorem laneByte_setLaneByte_ne (v : Lane) (x : Byte) {j k : Nat} (hj : j < 8) (hjk : j ≠ k) :
    laneByte (setLaneByte v k x) j = laneByte v j := by
  refine BitVec.eq_of_getLsbD_eq fun i hi => ?_
  have hbit : 8 * j + i < 64 := by omega
  rw [laneByte_getLsbD, laneByte_getLsbD, setLaneByte_getLsbD v k x hbit, if_neg (by omega)]

/-! ### The byte space is a view of the lanes (R41) -/

/-- A lane written is its eight bytes written, and no other byte (R41's "and the reverse"). -/
theorem sbRead_set (A : Lanes) (l : Fin 25) (w : Lane) (b : Fin 200) :
    sbRead (A.set l.val w) b = if b.val / 8 = l.val then laneByte w (b.val % 8) else sbRead A b := by
  by_cases hl : b.val / 8 = l.val
  · simp [sbRead, hl]
  · simp [sbRead, hl, Vector.getElem_set_ne _ _ (Ne.symm hl)]

/-- A byte written is read back, and every other byte is as before. -/
theorem sbRead_sbWrite (A : Lanes) (a b : Fin 200) (x : Byte) :
    sbRead (sbWrite A b x) a = if a = b then x else sbRead A a := by
  rw [sbWrite, sbRead_set A ⟨b.val / 8, by omega⟩]
  by_cases hab : a = b
  · subst hab
    simp [laneByte_setLaneByte_same _ _ (Nat.mod_lt a.val (by decide : 0 < 8))]
  · rw [if_neg hab]
    split
    · next hlane =>
      have hbyte : a.val % 8 ≠ b.val % 8 := by simp only at hlane; omega
      simp [sbRead, laneByte_setLaneByte_ne _ x (Nat.mod_lt a.val (by decide : 0 < 8)) hbyte, hlane]
    · rfl

/-- A byte write reaches no lane but the byte's own. -/
theorem sbWrite_lane_ne (A : Lanes) (b : Fin 200) (x : Byte) {l : Fin 25} (hl : l.val ≠ b.val / 8) :
    (sbWrite A b x)[l] = A[l] :=
  Vector.getElem_set_ne _ l.isLt hl.symm

/-- Byte `k` of a lane in the byte space: R41 read backwards. -/
theorem sbRead_lane (A : Lanes) (l : Fin 25) {k : Nat} (hk : k < 8) :
    sbRead A ⟨8 * l.val + k, by omega⟩ = laneByte A[l] k := by
  have hdiv : (8 * l.val + k) / 8 = l.val := by omega
  have hmod : (8 * l.val + k) % 8 = k := by omega
  simp [sbRead, hdiv, hmod]

/-- Two lane arrays are equal when their 200 bytes are. -/
theorem lanes_ext_bytes {A B : Lanes} (h : ∀ b : Fin 200, sbRead A b = sbRead B b) : A = B :=
  lanes_ext fun l => lane_ext fun k hk => by rw [← sbRead_lane A l hk, ← sbRead_lane B l hk, h]

/-- Settles O12: the read by definition, the byte written and its frame by `sbRead_sbWrite` and `sbWrite_lane_ne`, the
lane written by `sbRead_set`. -/
theorem sbWriteChangesOneByte : Obligations.SbWriteChangesOneByte := by
  unfold Obligations.SbWriteChangesOneByte
  intro A b x
  refine ⟨rfl, ?same, fun a hab => ?other, fun l hl => sbWrite_lane_ne A b x hl, fun l w => sbRead_set A l w b⟩
  case same => rw [sbRead_sbWrite, if_pos rfl]
  case other => rw [sbRead_sbWrite, if_neg hab]

/-! ### MemRead and MemWrite (R42) -/

/-- One more byte of `MemRead`, inside the byte space. -/
theorem memReadFrom_succ (A : Lanes) {addr n : Nat} (h : addr + n < 200) :
    memReadFrom A addr (n + 1) = memReadFrom A addr n ||| (sbRead A ⟨addr + n, h⟩).toNat <<< (8 * n) := by
  rw [memReadFrom, dif_pos h]

/-- One more byte of `MemWrite`, inside the byte space. -/
theorem memWriteFrom_succ (A : Lanes) (v : Nat) {addr n : Nat} (h : addr + n < 200) :
    memWriteFrom A addr v (n + 1) =
      sbWrite (memWriteFrom A addr v n) ⟨addr + n, h⟩ (BitVec.ofNat 8 (v >>> (8 * n))) := by
  rw [memWriteFrom, dif_pos h]

theorem memRead_of_le (A : Lanes) {addr n : Nat} (h : addr + n ≤ 200) :
    memRead A addr n = some (memReadFrom A addr n) := if_pos h

theorem memWrite_of_le (A : Lanes) (v : Nat) {addr n : Nat} (h : addr + n ≤ 200) :
    memWrite A addr n v = some (memWriteFrom A addr v n) := if_pos h

/-- `MemRead(addr, n)` is an `8n`-bit value. -/
theorem memReadFrom_lt (A : Lanes) (addr : Nat) : ∀ {n : Nat}, addr + n ≤ 200 → memReadFrom A addr n < 2 ^ (8 * n)
  | 0, _ => Nat.one_pos
  | n + 1, h => by
    rw [memReadFrom_succ A h]
    refine Nat.or_lt_two_pow ?low ?top
    case low => exact (memReadFrom_lt A addr (by omega)).trans (Nat.pow_lt_pow_right (by decide) (by omega))
    case top =>
      rw [Nat.shiftLeft_eq, Nat.mul_succ, Nat.add_comm (8 * n), Nat.pow_add]
      exact Nat.mul_lt_mul_of_pos_right (BitVec.isLt _) (by positivity)

/-- Byte `k` of `MemRead(addr, n)` is `SB[addr+k]`. -/
theorem memReadFrom_byte (A : Lanes) (addr : Nat) {n k : Nat} (h : addr + n ≤ 200) (hk : k < n) :
    BitVec.ofNat 8 (memReadFrom A addr n >>> (8 * k)) = sbRead A ⟨addr + k, by omega⟩ := by
  induction n with
  | zero => omega
  | succ n ih =>
    rw [memReadFrom_succ A h, Nat.shiftRight_or_distrib]
    obtain rfl | hkn := Nat.eq_or_lt_of_le (Nat.le_of_lt_succ hk)
    · rw [Nat.shiftRight_eq_zero _ _ (memReadFrom_lt A addr (by omega)), Nat.shiftLeft_shiftRight]
      simp
    · have hnext : BitVec.ofNat 8 ((sbRead A ⟨addr + n, h⟩).toNat <<< (8 * n) >>> (8 * k)) = 0#8 := by
        refine BitVec.eq_of_getLsbD_eq fun i hi => ?_
        have hbelow : ¬8 * n ≤ 8 * k + i := by omega
        rw [BitVec.getLsbD_ofNat, Nat.testBit_shiftRight, Nat.testBit_shiftLeft, decide_eq_false hbelow]
        simp
      rw [BitVec.ofNat_or, ih (by omega) hkn, hnext, BitVec.or_zero]

/-- `MemWrite(addr, n, v)` sets byte `addr+k` to byte `k` of `v`, and no other byte. -/
theorem sbRead_memWriteFrom (A : Lanes) (addr v : Nat) {n : Nat} (h : addr + n ≤ 200) (b : Fin 200) :
    sbRead (memWriteFrom A addr v n) b =
      if addr ≤ b.val ∧ b.val < addr + n then BitVec.ofNat 8 (v >>> (8 * (b.val - addr))) else sbRead A b := by
  induction n with
  | zero => rw [memWriteFrom, if_neg (by omega)]
  | succ n ih =>
    rw [memWriteFrom_succ A v h, sbRead_sbWrite, ih (by omega)]
    by_cases hb : b.val = addr + n
    · simp [Fin.ext_iff, hb]
    · have hrange : b.val < addr + n ↔ b.val < addr + (n + 1) := by omega
      rw [if_neg (by simpa [Fin.ext_iff] using hb)]
      simp only [hrange]

/-- R42: `MemRead(8l, 8) = A[l]`, as both have the bytes of lane `l`. -/
theorem memReadFrom_lane (A : Lanes) (l : Fin 25) : memReadFrom A (8 * l.val) 8 = A[l].toNat := by
  have hlt : memReadFrom A (8 * l.val) 8 < 2 ^ 64 := memReadFrom_lt A _ (by omega)
  have hlane : BitVec.ofNat 64 (memReadFrom A (8 * l.val) 8) = A[l] := lane_ext fun k hk => by
    rw [laneByte_ofNat _ hk, memReadFrom_byte A _ (by omega) hk, sbRead_lane A l hk]
  rw [← hlane, BitVec.toNat_ofNat, Nat.mod_eq_of_lt hlt]

/-- R42: `MemWrite(8l, 8, v)` is `A[l] <- v`, as both leave the same byte space. -/
theorem memWriteFrom_lane (A : Lanes) (l : Fin 25) (x : Lane) :
    memWriteFrom A (8 * l.val) x.toNat 8 = A.set l.val x := by
  refine lanes_ext_bytes fun b => ?_
  have hrange : (8 * l.val ≤ b.val ∧ b.val < 8 * l.val + 8) ↔ b.val / 8 = l.val := by omega
  rw [sbRead_memWriteFrom A _ _ (by omega), sbRead_set]
  simp only [hrange, laneByte_eq_ofNat]
  split
  · next hb =>
    have hbyte : b.val - 8 * l.val = b.val % 8 := by omega
    rw [hbyte]
  · rfl

/-- Settles O13: in R42's range both functions answer, byte by byte as `memReadFrom_byte` and `sbRead_memWriteFrom`
say; a whole lane is the case of eight bytes from `8l`. -/
theorem memReadAndMemWrite : Obligations.MemReadAndMemWrite := by
  unfold Obligations.MemReadAndMemWrite
  refine ⟨fun A addr n x h => ⟨⟨_, memRead_of_le A h, memReadFrom_lt A addr h, fun k hlo hhi => ?_⟩,
    _, memWrite_of_le A x h, sbRead_memWriteFrom A addr x h⟩, fun A l x => ⟨?_, ?_⟩⟩
  · have hk : addr + (k.val - addr) = k.val := by omega
    simp [memReadFrom_byte A addr h (k := k.val - addr) (by omega), hk]
  · rw [memRead_of_le A (by omega), memReadFrom_lane]
  · rw [memWrite_of_le A _ (by omega), memWriteFrom_lane]

end Sys2Proof.Machine
end

section
/-! What a framed request at the ports does, by the word's legality (R66, R70, R162). -/

namespace Sys2Proof.Machine

open Safety

/-! ### The command a word decodes to -/

/-- A command decoded from a framed request has the request's OP and payload, and its word has no reserved bit (R62). -/
theorem fields_of_decodeWord {cw : Word32} {D : List Byte} {i : Instr} (hlen : D.length = lenField cw)
    (hdec : decodeWord cw D = .ok i) : rsvdField cw = 0 ∧ opField cw = i.op ∧ D = i.payload := by
  rw [decodeWord_eq] at hdec
  -- One case for each row of the opcode table; the word that is no row's decodes to no command.
  split_ifs at hdec <;> cases hdec <;> simp_all [Instr.op, Instr.payload]

/-- A word that decodes is legal exactly when the variant admits the command (R66). -/
theorem legal_eq_wellFormed {cw : Word32} {D : List Byte} {i : Instr} (v : Variant) (hlen : D.length = lenField cw)
    (hdec : decodeWord cw D = .ok i) : legal v cw = i.wellFormed v := by
  obtain ⟨hrsvd, hop, rfl⟩ := fields_of_decodeWord hlen hdec
  cases i <;> simp [legal, hrsvd, hop, ← hlen, Instr.op, Instr.payload, Instr.wellFormed]

/-- Every legal word decodes (R67). -/
theorem exists_decodeWord_of_legal {v : Variant} {cw : Word32} (D : List Byte) (hlegal : legal v cw = true) :
    ∃ i : Instr, decodeWord cw D = .ok i := by
  simp only [legal, Bool.and_eq_true, Bool.or_eq_true, beq_iff_eq] at hlegal
  obtain ⟨hrsvd, hrow⟩ := hlegal
  rw [decodeWord_eq]
  rcases hrow with ((((⟨hop, hlen⟩ | ⟨hop, -⟩) | ⟨hop, -⟩) | ⟨hop, hlen⟩) | ⟨hop, hlen⟩) | ⟨hop, hlen⟩ <;>
    simp [*]

/-! ### Executing it -/

/-- A command whose LEN the variant does not admit is refused before its phase is looked at (R162). -/
theorem exec_of_not_wellFormed {i : Instr} {s : State} (h : i.wellFormed s.variant = false) :
    exec i s = .next (s.raise .errIllegal) := by
  cases i with
  | absorb block =>
    have hlen : absorbLenAdmitted s.variant block = false := h
    simp [exec, execAbsorb, hlen]
  | final msg =>
    have hlen : finalLenAdmitted s.variant msg = false := h
    simp [exec, execFinal, hlen]
  | _ => cases h

/-- The verdict on a legal word is the phase table's: R162's ERR_IO is the table's entry for SQUEEZE in ABORTED. -/
theorem verdict_of_legal {v : Variant} {cw : Word32} (p : Phase) (hlegal : legal v cw = true) :
    verdict v cw p = (phaseTable (opField cw).toNat p).1 := by
  unfold verdict
  rw [if_neg (by simp [hlegal])]
  split_ifs with hio
  · obtain ⟨hop, rfl⟩ := hio
    rw [hop]
    rfl
  · rfl

/-- An admitted command does what the rules' own account says of its word. Once ABSORB's and FINAL's LEN checks are
passed, both sides compute to the same state in each phase. -/
theorem exec_of_legal {cw : Word32} {i : Instr} {s : State} (hop : opField cw = i.op)
    (hlegal : legal s.variant cw = true) (hwf : i.wellFormed s.variant = true) :
    exec i s = .next
      { s with
        lanes := lanesAfter s.variant cw i.payload s.phase s.lanes
        phase := phaseAfter s.variant cw s.phase
        respPort := s.respPort ++ responseTo s.variant cw s.phase s.lanes } := by
  simp only [lanesAfter, phaseAfter, responseTo, verdict_of_legal s.phase hlegal, hop]
  obtain ⟨A, phase, v, parser, cmdPort, respPort, respReady, received⟩ := s
  cases i with
  | absorb block => cases phase <;> exact if_pos hwf
  | final msg => cases phase <;> exact if_pos hwf
  | _ => cases phase <;> rfl

/-! ### Answering a framed request -/

theorem payload_length_of_framed {q : Request} (h : q.framed = true) : q.payload.length = lenField q.word := by
  simpa [Request.framed] using h

/-- A step at a framed request runs the command its word decodes to, or refuses the word, on the state with the
request taken (R61, R64). -/
theorem step_request {s : State} {q : Request} {rest : List Byte} (h : HoldsRequest s q rest) :
    step s =
      match decodeWord q.word q.payload with
      | .ok i => exec i (s.take rest)
      | .error _ => .next ((s.take rest).raise .errIllegal) := by
  obtain ⟨hport, hbytes, hframed⟩ := h
  have hdec := decode_request q.word q.payload rest (payload_length_of_framed hframed)
  rw [← Request.bytes, ← hbytes] at hdec
  cases hword : decodeWord q.word q.payload with
  | ok i =>
    rw [hword] at hdec
    exact step_command hport hdec
  | error why =>
    rw [hword] at hdec
    exact step_illegal hport hdec

/-- An illegal word gets ERR_ILLEGAL, whether the decoder or the command refuses it (R66, R162). -/
theorem step_of_not_legal {s : State} {q : Request} {rest : List Byte} (h : HoldsRequest s q rest)
    (hlegal : legal s.variant q.word = false) : step s = .next ((s.take rest).raise .errIllegal) := by
  rw [step_request h]
  obtain ⟨-, -, hframed⟩ := h
  cases hword : decodeWord q.word q.payload with
  | error why => rfl
  | ok i =>
    rw [legal_eq_wellFormed s.variant (payload_length_of_framed hframed) hword] at hlegal
    exact exec_of_not_wellFormed hlegal

/-- Settles O26: the step only takes the request and sends ERR_ILLEGAL's code, 0x01, into the empty response port. -/
theorem illegalWordIsRefusedWithoutEffect : Obligations.IllegalWordIsRefusedWithoutEffect := by
  unfold Obligations.IllegalWordIsRefusedWithoutEffect
  intro s q rest h hlegal
  rw [step_of_not_legal h hlegal, State.raise_eq, State.respPort_take]
  obtain ⟨hport, -, -⟩ := h
  rw [hport]
  rfl

/-- A legal word's request is answered by the rules' own account of it (R130, R132 to R137, R162). -/
theorem step_of_legal {s : State} {q : Request} {rest : List Byte} (h : HoldsRequest s q rest)
    (hlegal : legal s.variant q.word = true) :
    step s = .next
      { s with
        lanes := lanesAfter s.variant q.word q.payload s.phase s.lanes
        phase := phaseAfter s.variant q.word s.phase
        parser := []
        cmdPort := rest
        respPort := responseTo s.variant q.word s.phase s.lanes } := by
  rw [step_request h]
  obtain ⟨hport, -, hframed⟩ := h
  have hlen := payload_length_of_framed hframed
  obtain ⟨i, hword⟩ := exists_decodeWord_of_legal q.payload hlegal
  obtain ⟨-, hop, hpayload⟩ := fields_of_decodeWord hlen hword
  have hexec := exec_of_legal (s := s.take rest) hop hlegal
    ((legal_eq_wellFormed s.variant hlen hword).symm.trans hlegal)
  rw [← hpayload, State.respPort_take, hport] at hexec
  rw [hword]
  exact hexec

/-! ### Lengths (R70) -/

theorem bytes_length_of_framed {q : Request} (h : q.framed = true) : q.bytes.length = 4 + lenField q.word := by
  rw [Request.bytes, List.length_append, wordBytes_length, payload_length_of_framed h]

/-- R70: the length of a response follows from the command and its status. -/
theorem responseTo_length (v : Variant) (cw : Word32) (p : Phase) (A : Lanes) :
    (responseTo v cw p A).length =
      if verdict v cw p = .ok then
        if opField cw = 0x04 then 1 + v.outBytes else if opField cw = 0x06 then 5 else 1
      else 1 := by
  unfold responseTo
  split_ifs
  · rw [List.length_cons, extract_length, Nat.add_comm]
  · rfl
  · rfl
  · rfl

/-- The response of an illegal word is the one byte of ERR_ILLEGAL. -/
theorem responseTo_of_not_legal {v : Variant} {cw : Word32} (p : Phase) (A : Lanes) (hlegal : legal v cw = false) :
    responseTo v cw p A = [Status.errIllegal.code] := by
  simp [responseTo, verdict, hlegal]

/-- The response to any framed request is the one the rules name (R61, R160). -/
theorem respPort_of_step {s t : State} {q : Request} {rest : List Byte} (h : HoldsRequest s q rest)
    (hstep : step s = .next t) : t.respPort = responseTo s.variant q.word s.phase s.lanes := by
  cases hlegal : legal s.variant q.word with
  | true =>
    rw [step_of_legal h hlegal] at hstep
    cases hstep
    rfl
  | false =>
    rw [step_of_not_legal h hlegal] at hstep
    cases hstep
    obtain ⟨hport, -, -⟩ := h
    rw [responseTo_of_not_legal _ _ hlegal, State.respPort_raise, State.respPort_take, hport, List.nil_append]

/-- Settles O28: the response is the rules' own, whose length `responseTo_length` gives. -/
theorem requestAndResponseLengths : Obligations.RequestAndResponseLengths := by
  unfold Obligations.RequestAndResponseLengths
  refine ⟨fun _ => bytes_length_of_framed, fun s t q rest h hstep => ?_⟩
  rw [respPort_of_step h hstep, responseTo_length]

end Sys2Proof.Machine
end

section
/-! The pseudo-instruction HASH and its expansion (R72). -/

namespace Sys2Proof.Machine

/-! ### Cutting a message into blocks -/

theorem messageBlock_length {v : Variant} {M : List Byte} {i : Nat} (hi : i < fullBlocks v M) :
    (messageBlock v M i).length = v.rBytes := by
  have hend : (i + 1) * v.rBytes ≤ M.length :=
    (Nat.le_div_iff_mul_le (rBytes_pos v)).mp (Nat.succ_le_of_lt hi)
  rw [Nat.succ_mul] at hend
  rw [messageBlock, List.length_take, List.length_drop]
  omega

theorem messageTail_length (v : Variant) (M : List Byte) : (messageTail v M).length = M.length % v.rBytes := by
  rw [messageTail, List.length_drop, fullBlocks, Nat.mod_eq_sub_div_mul]

/-- The first `n` blocks, joined, are the message's first `n * R_BYTES` bytes. -/
theorem flatten_messageBlocks (v : Variant) (M : List Byte) (n : Nat) :
    ((List.range n).map (messageBlock v M)).flatten = M.take (n * v.rBytes) := by
  induction n with
  | zero => simp
  | succ n ih =>
    rw [List.range_succ, List.map_append, List.flatten_append, ih, Nat.succ_mul, List.take_add]
    simp [messageBlock]

/-- The blocks of the expansion, then its tail, are the message. -/
theorem flatten_messageBlocks_append_messageTail (v : Variant) (M : List Byte) :
    ((List.range (fullBlocks v M)).map (messageBlock v M)).flatten ++ messageTail v M = M := by
  rw [flatten_messageBlocks, messageTail, List.take_append_drop]

/-! ### Assembling the expansion -/

/-- Every command of the expansion has a LEN the variant admits, so no line of it is rejected (R71). -/
theorem wellFormed_of_mem_hashCommands {v : Variant} {M : List Byte} {i : Instr} (h : i ∈ hashCommands v M) :
    i.wellFormed v = true := by
  simp only [hashCommands, List.cons_append, List.mem_cons, List.mem_append, List.mem_map, List.mem_range,
    List.not_mem_nil, or_false] at h
  obtain rfl | ⟨k, hk, rfl⟩ | rfl | rfl := h
  · rfl
  · exact (wellFormed_absorb v _).mpr (messageBlock_length hk)
  · rw [wellFormed_final, messageTail_length]
    exact Nat.le_pred_of_lt (Nat.mod_lt _ (rBytes_pos v))
  · rfl

/-- No command line of admitted commands is rejected: each assembles to its request (R71). -/
theorem mapM_assembleLine_commands {v : Variant} {cmds : List Instr} (h : ∀ i ∈ cmds, i.wellFormed v = true) :
    (cmds.map Line.command).mapM (assembleLine v) = some (cmds.map encode) := by
  induction cmds with
  | nil => rfl
  | cons i cmds ih =>
    obtain ⟨hi, hcmds⟩ := List.forall_mem_cons.mp h
    simp [assembleLine, hi, ih hcmds]

/-- Command lines of admitted commands assemble to the commands' requests, in order. -/
theorem assemble_commands {v : Variant} {cmds : List Instr} (h : ∀ i ∈ cmds, i.wellFormed v = true) :
    assemble v (cmds.map Line.command) = some (requestsOf cmds) := by
  rw [assemble, mapM_assembleLine_commands h, Option.map_some, requestsOf, List.flatMap]

/-- Settles O54: the line and its expansion assemble to the same requests, as the variant admits every command of the
expansion; the blocks and the tail are the message's own. -/
theorem hashLineIsItsExpansion : Obligations.HashLineIsItsExpansion := by
  unfold Obligations.HashLineIsItsExpansion
  intro v M
  refine ⟨rfl, (assemble_commands fun i => wellFormed_of_mem_hashCommands).symm,
    (List.range (fullBlocks v M)).map (messageBlock v M), messageTail v M, ?_, ?_, ?_, messageTail_length v M,
    flatten_messageBlocks_append_messageTail v M⟩
  · rw [List.map_map]
    rfl
  · rw [List.length_map, List.length_range, fullBlocks]
  · intro b hb
    obtain ⟨k, hk, rfl⟩ := List.mem_map.mp hb
    exact messageBlock_length (List.mem_range.mp hk)

end Sys2Proof.Machine
end

section
/-! The tables against R85's formulas, Iota (R90) and the walk of Rho+Pi (R87, R88). -/

namespace Sys2Proof.Machine

/-! ### The tables (R82 to R85) -/

theorem ROT_eq_rotFormula : ∀ k : Fin 24, ROT[k] = rotFormula k.val := by decide

theorem PI_eq_piFormula : ∀ k : Fin 24, PI[k].val = piFormula k.val := by decide

/-- By the kernel, which runs the LFSR to time `6 + 7 * 23 = 167`. -/
theorem RC_eq_rcFormula : ∀ r : Fin 24, RC[r] = rcFormula r.val := by decide +kernel

theorem ROT_range : ∀ k : Fin 24, 1 ≤ ROT[k] ∧ ROT[k] ≤ 62 := by decide

theorem PI_count : ∀ j : Fin 25, PI.toList.count j = if j = 0 then 0 else 1 := by decide

/-- Settles O2: each table against its formula, entry by entry, then R84's and R83's remarks. -/
theorem tablesFollowTheirFormulas : Obligations.TablesFollowTheirFormulas := by
  unfold Obligations.TablesFollowTheirFormulas
  exact ⟨fun k => ⟨ROT_eq_rotFormula k, PI_eq_piFormula k, RC_eq_rcFormula k⟩, PI_count, ROT_range⟩

/-! ### Iota (R90) -/

theorem RC_ne_zero : ∀ r : Fin 24, RC[r] ≠ 0#64 := by decide

/-- Iota at one lane (R90). -/
theorem iota_lane (A : Lanes) (r : Fin 24) (i : Fin 25) :
    (iota A r)[i] = if i = 0 then A[i] ^^^ RC[r] else A[i] := by
  by_cases hi : i = 0
  · subst hi
    simp [iota]
  · have hval : 0 ≠ i.val := fun h => hi (Fin.ext h.symm)
    simp [iota, hi, Vector.getElem_set_ne _ _ hval]

/-- Settles O7: `iota_lane` at lane 0, where no constant is zero, and at the others. -/
theorem iotaChangesLaneZeroOnly : Obligations.IotaChangesLaneZeroOnly := by
  unfold Obligations.IotaChangesLaneZeroOnly
  intro A r
  have hzero : (iota A r)[0] = A[0] ^^^ RC[r] := iota_lane A r 0
  have hchanged : (iota A r)[0] ≠ A[0] := fun hsame =>
    RC_ne_zero r (BitVec.xor_right_inj A[0] |>.mp (by rw [← hzero, hsame, BitVec.xor_zero]))
  exact ⟨hzero, hchanged, fun i hi => (iota_lane A r i).trans (if_neg hi)⟩

/-! ### The walk (R87, R88)

`PI` is one cycle through the lanes 1 to 24: step `k` writes `PI[k]` from `PI[k - 1]`, where `PI[0 - 1] = PI[23]` is the
lane 1 that seeds the wanderer. -/

/-- The lanes and the wanderer after `n` steps of the walk. -/
def rhoPiWalk (A : Lanes) (n : Nat) : Lanes × Lane := ((List.finRange 24).take n).foldl rhoPiStep (A, A[1])

theorem rhoPi_eq_walk (A : Lanes) : rhoPi A = (rhoPiWalk A 24).1 := rfl

theorem rhoPiWalk_succ (A : Lanes) {n : Nat} (hn : n < 24) :
    rhoPiWalk A (n + 1) = rhoPiStep (rhoPiWalk A n) ⟨n, hn⟩ := by
  simp [rhoPiWalk, List.take_add_one, hn]

theorem PI_injective : ∀ j k : Fin 24, PI[j] = PI[k] → j = k := by decide

/-- A lane not written yet holds the input's value. -/
theorem rhoPiWalk_kept (A : Lanes) {i : Fin 25} :
    ∀ {n : Nat}, n ≤ 24 → (∀ k : Fin 24, k.val < n → PI[k] ≠ i) → (rhoPiWalk A n).1[i] = A[i]
  | 0, _, _ => rfl
  | n + 1, hn, hi => by
    rw [rhoPiWalk_succ A hn, rhoPiStep_lane, if_neg (hi ⟨n, hn⟩ n.lt_succ_self)]
    exact rhoPiWalk_kept A (Nat.le_of_lt hn) fun k hk => hi k (Nat.lt_succ_of_lt hk)

/-- Before step `k` the wanderer is the input's lane `PI[k - 1]`. -/
theorem rhoPiWalk_wanderer (A : Lanes) (k : Fin 24) : (rhoPiWalk A k.val).2 = A[PI[k - 1]] := by
  obtain ⟨_ | n, hk⟩ := k
  case zero => rfl
  case succ =>
    have hn : n < 24 := by omega
    have hprev : (⟨n + 1, hk⟩ : Fin 24) - 1 = ⟨n, hn⟩ := by
      rw [sub_eq_iff_eq_add, Fin.ext_iff, Fin.val_add_one_of_lt' (by omega)]
    have hunwritten : ∀ j : Fin 24, j.val < n → PI[j] ≠ PI[(⟨n, hn⟩ : Fin 24)] := fun j hj hsame =>
      hj.ne (congrArg Fin.val (PI_injective j _ hsame))
    simp only [hprev]
    rw [rhoPiWalk_succ A hn, rhoPiStep_wanderer]
    exact rhoPiWalk_kept A hn.le hunwritten

/-- A lane once written keeps its value, as the walk writes no lane twice. -/
theorem rhoPiWalk_written (A : Lanes) (k : Fin 24) :
    ∀ {n : Nat}, n ≤ 24 → k.val < n → (rhoPiWalk A n).1[PI[k]] = rotl64 A[PI[k - 1]] ROT[k]
  | n + 1, hn, hk => by
    rw [rhoPiWalk_succ A hn, rhoPiStep_lane]
    obtain hlt | rfl := Nat.lt_or_eq_of_le (Nat.le_of_lt_succ hk)
    · have hother : PI[(⟨n, hn⟩ : Fin 24)] ≠ PI[k] := fun hsame =>
        hlt.ne (congrArg Fin.val (PI_injective k _ hsame.symm))
      rw [if_neg hother]
      exact rhoPiWalk_written A k (Nat.le_of_lt hn) hlt
    · rw [if_pos rfl, rhoPiWalk_wanderer]

/-- R88's map along the walk. -/
theorem rhoPiDest_PI : ∀ k : Fin 24, rhoPiDest[PI[k - 1]] = PI[k] ∧ rhoPiRotation[PI[k - 1]] = ROT[k] := by decide

theorem exists_PI_of_ne_zero : ∀ s : Fin 25, s ≠ 0 → ∃ k : Fin 24, PI[k - 1] = s := by decide

/-- RhoPi moves every source lane by R88's map. -/
theorem rhoPi_lane (A : Lanes) (s : Fin 25) : (rhoPi A)[rhoPiDest[s]] = rotl64 A[s] rhoPiRotation[s] := by
  rw [rhoPi_eq_walk]
  by_cases hs : s = 0
  · subst hs
    have hnever : ∀ k : Fin 24, PI[k] ≠ 0 := by decide
    exact (rhoPiWalk_kept A le_rfl fun k _ => hnever k).trans (rotl64_zero _).symm
  · obtain ⟨k, rfl⟩ := exists_PI_of_ne_zero s hs
    obtain ⟨hdest, hrot⟩ := rhoPiDest_PI k
    simp only [hdest, hrot]
    exact rhoPiWalk_written A k le_rfl k.isLt

/-- Settles O6: the walk by `rhoPi_lane`, the map by evaluation of the tables. -/
theorem rhoPiWalkHasItsClosedForm : Obligations.RhoPiWalkHasItsClosedForm := by
  unfold Obligations.RhoPiWalkHasItsClosedForm
  refine ⟨rhoPi_lane, ⟨rfl, rfl, rfl, rfl⟩, ?_, ?_⟩
  · decide
  · decide

end Sys2Proof.Machine
end

section
/-! Theta lane by lane (R86) and Chi bit by bit (R89). -/

namespace Sys2Proof.Machine

/-! ### Theta (R86) -/

/-- A column's parity over the lanes of its five rows. -/
theorem columnParity_eq (A : Lanes) (x : Fin 5) :
    columnParity A x =
      A[laneIndex x 0] ^^^ A[laneIndex x 1] ^^^ A[laneIndex x 2] ^^^ A[laneIndex x 3] ^^^ A[laneIndex x 4] := rfl

/-- The lane `d` columns to the right, within its row. -/
theorem laneIndex_add_mod (x y d : Fin 5) : ((laneIndex x y).val + d.val) % 5 = (x + d).val := by
  simp only [laneIndex, Fin.val_add]
  omega

/-- Theta at lane `(x, y)`, with the two columns named as R86 does. -/
theorem theta_laneIndex (A : Lanes) (x y : Fin 5) :
    (theta A)[laneIndex x y] =
      A[laneIndex x y] ^^^ (columnParity A (x + 4) ^^^ rotl64 (columnParity A (x + 1)) 1) := by
  have hleft : (⟨((laneIndex x y).val + 4) % 5, Nat.mod_lt _ (by decide)⟩ : Fin 5) = x + 4 :=
    Fin.ext (laneIndex_add_mod x y 4)
  have hright : (⟨((laneIndex x y).val + 1) % 5, Nat.mod_lt _ (by decide)⟩ : Fin 5) = x + 1 :=
    Fin.ext (laneIndex_add_mod x y 1)
  rw [theta_lane, hleft, hright]

/-- The parity of five equal lanes is the lane. -/
theorem columnParity_replicate (v : Lane) (x : Fin 5) : columnParity (Vector.replicate 25 v) x = v := by
  simp [columnParity]

/-- Theta keeps a state of 25 equal lanes that the rotation keeps. -/
theorem theta_replicate {v : Lane} (hv : rotl64 v 1 = v) : theta (Vector.replicate 25 v) = Vector.replicate 25 v := by
  refine lanes_ext fun i => ?_
  rw [theta_lane, columnParity_replicate, columnParity_replicate, hv, BitVec.xor_self, BitVec.xor_zero]

/-- Settles O4: `theta_laneIndex` with the parities written out; no bit or every bit set is kept by the rotation. -/
theorem thetaChangesColumns : Obligations.ThetaChangesColumns := by
  unfold Obligations.ThetaChangesColumns
  exact ⟨theta_laneIndex, theta_replicate (by decide), theta_replicate (by decide)⟩

/-! ### Chi (R89) -/

/-- Chi on one row of bits. -/
def chiRow (b : Fin 5 → Bool) (x : Fin 5) : Bool := b x ^^ (!b (x + 1) && b (x + 2))

/-- Bit `z` of row `y`. -/
def rowBits (A : Lanes) (y : Fin 5) (z : Nat) (x : Fin 5) : Bool := A[laneIndex x y].getLsbD z

/-- Chi at lane `(x, y)`, with the two lanes of its row named as R89 does. -/
theorem chi_laneIndex (A : Lanes) (x y : Fin 5) :
    (chi A)[laneIndex x y] =
      A[laneIndex x y] ^^^ (~~~A[laneIndex (x + 1) y] &&& A[laneIndex (x + 2) y]) := by
  have hrow (d : Fin 5) :
      5 * ((laneIndex x y).val / 5) + ((laneIndex x y).val + d.val) % 5 = (laneIndex (x + d) y).val := by
    rw [laneIndex_add_mod]
    simp only [laneIndex]
    omega
  have hone := hrow 1
  have htwo := hrow 2
  rw [chi_lane]
  simp only [Fin.val_one, Fin.val_two] at hone htwo
  simp only [hone, htwo, Fin.getElem_fin]

theorem rowBits_chi (A : Lanes) (y : Fin 5) {z : Nat} (hz : z < 64) :
    rowBits (chi A) y z = chiRow (rowBits A y z) := by
  funext x
  rw [rowBits, chi_laneIndex]
  simp [rowBits, chiRow, hz]

/-- Settles O5: `rowBits_chi` with the row's bits written out. -/
theorem chiIsBitSlicedByRow : Obligations.ChiIsBitSlicedByRow := by
  unfold Obligations.ChiIsBitSlicedByRow
  exact fun A x y z hz => congrFun (rowBits_chi A y hz) x

end Sys2Proof.Machine
end

section
/-! Every round and KeccakF are bijections (R91). -/

namespace Sys2Proof.Machine

/-! ### Iota and RhoPi -/

/-- Iota undoes itself. -/
theorem iota_iota (A : Lanes) (r : Fin 24) : iota (iota A r) r = A := by
  refine lanes_ext fun i => ?_
  rw [iota_lane, iota_lane]
  split
  · rw [BitVec.xor_assoc, BitVec.xor_self, BitVec.xor_zero]
  · rfl

theorem iota_injective (r : Fin 24) : Function.Injective fun A : Lanes => iota A r :=
  Function.LeftInverse.injective (g := fun A => iota A r) fun A => iota_iota A r

theorem rotl64_injective {n : Nat} (hn : n < 64) : Function.Injective fun v : Lane => rotl64 v n := by
  intro v w h
  refine BitVec.eq_of_getLsbD_eq fun i hi => ?_
  have hbit := congrArg (·.getLsbD ((i + n) % 64)) h
  have hsource : ((i + n) % 64 + 64 - n) % 64 = i := by omega
  simpa only [rotl64_getLsbD _ hn (Nat.mod_lt _ (by decide)), hsource] using hbit

theorem rhoPiRotation_lt : ∀ s : Fin 25, rhoPiRotation[s] < 64 := by decide

/-- The destination of every source lane holds the lane's bits, rotated. -/
theorem rhoPi_injective : Function.Injective rhoPi := by
  intro A B h
  refine lanes_ext fun s => rotl64_injective (rhoPiRotation_lt s) ?_
  simp only [← rhoPi_lane, h]

/-! ### Chi -/

/-- A row before Chi, bit by bit, from the row after it. -/
def chiRowInverse (b : Fin 5 → Bool) (x : Fin 5) : Bool :=
  b x ^^ (!b (x + 1) && (b (x + 2) ^^ (!b (x + 3) && b (x + 4))))

theorem chiRowInverse_chiRow (b : Fin 5 → Bool) : chiRowInverse (chiRow b) = b := by
  funext x
  simp only [chiRowInverse, chiRow, add_assoc, Fin.reduceAdd, add_zero]
  generalize b x = b₀, b (x + 1) = b₁, b (x + 2) = b₂, b (x + 3) = b₃, b (x + 4) = b₄
  revert b₀ b₁ b₂ b₃ b₄
  decide

/-- Two lane arrays are equal when their rows of bits are. -/
theorem lanes_ext_rowBits {A B : Lanes} (h : ∀ y z, z < 64 → rowBits A y z = rowBits B y z) : A = B := by
  refine lanes_ext fun i => BitVec.eq_of_getLsbD_eq fun z hz => ?_
  have hi : laneIndex (laneColumn i) (laneRow i) = i := Fin.ext (Nat.mod_add_div i.val 5)
  have hbit := congrFun (h (laneRow i) z hz) (laneColumn i)
  simpa only [rowBits, hi] using hbit

theorem chi_injective : Function.Injective chi := by
  intro A B h
  refine lanes_ext_rowBits fun y z hz => ?_
  have hrow : chiRow (rowBits A y z) = chiRow (rowBits B y z) := by
    rw [← rowBits_chi A y hz, ← rowBits_chi B y hz, h]
  exact Function.LeftInverse.injective chiRowInverse_chiRow hrow

/-! ### Theta

Theta acts on the five column parities by a linear map, `columnMix 1 1` below. Squaring such a map doubles its offset and
its rotation, so its 64th power is `columnMix 4 64`, whose rotation by 64 does nothing, and which its own square,
`columnMix 3 128`, undoes. -/

/-- Each column takes on the column `d` to its left and, rotated by `n`, the column `d` to its right. -/
def columnMix (d : Fin 5) (n : Nat) (C : Fin 5 → Lane) (x : Fin 5) : Lane :=
  C x ^^^ (C (x - d) ^^^ (C (x + d)).rotateLeft n)

theorem rotateLeft_xor (v w : Lane) (n : Nat) : (v ^^^ w).rotateLeft n = v.rotateLeft n ^^^ w.rotateLeft n := by
  refine BitVec.eq_of_getMsbD_eq fun i hi => ?_
  simp [BitVec.getMsbD_rotateLeft, hi]

theorem rotateLeft_rotateLeft (v : Lane) (m n : Nat) : (v.rotateLeft m).rotateLeft n = v.rotateLeft (n + m) := by
  refine BitVec.eq_of_getMsbD_eq fun i hi => ?_
  have hbit : (n + i) % 64 < 64 := Nat.mod_lt _ (by decide)
  have hsource : (m + (n + i) % 64) % 64 = (n + m + i) % 64 := by omega
  simp [BitVec.getMsbD_rotateLeft, hi, hbit, hsource]

theorem rotateLeft_of_mod_eq_zero (v : Lane) {n : Nat} (hn : n % 64 = 0) : v.rotateLeft n = v := by
  rw [← BitVec.rotateLeft_mod_eq_rotateLeft, hn, ← rotl64_eq_rotateLeft v (by decide), rotl64_zero]

theorem lane_xor_cancel_left (v w : Lane) : v ^^^ (v ^^^ w) = w := by
  rw [← BitVec.xor_assoc, BitVec.xor_self, BitVec.zero_xor]

theorem lane_xor_left_comm (u v w : Lane) : u ^^^ (v ^^^ w) = v ^^^ (u ^^^ w) := by
  rw [← BitVec.xor_assoc, BitVec.xor_comm u v, BitVec.xor_assoc]

/-- In the square of the map the cross terms cancel, as exclusive or has characteristic 2. -/
theorem columnMix_columnMix (d : Fin 5) (n : Nat) (C : Fin 5 → Lane) :
    columnMix d n (columnMix d n C) = columnMix (d + d) (n + n) C := by
  funext x
  simp only [columnMix, rotateLeft_xor, rotateLeft_rotateLeft, sub_add_cancel, add_sub_cancel_right, add_assoc,
    sub_sub]
  simp only [BitVec.xor_assoc, lane_xor_left_comm, lane_xor_cancel_left]

theorem columnMix_injective_of_double {d : Fin 5} {n : Nat} (h : Function.Injective (columnMix (d + d) (n + n))) :
    Function.Injective (columnMix d n) := by
  have hsquare : columnMix d n ∘ columnMix d n = columnMix (d + d) (n + n) := funext (columnMix_columnMix d n)
  exact Function.Injective.of_comp (hsquare ▸ h)

/-- Rotations by 64 and 128 keep a lane, and the exclusive or of the columns cancels. -/
theorem columnMix_three_columnMix_four (C : Fin 5 → Lane) : columnMix 3 128 (columnMix 4 64 C) = C := by
  funext x
  have hthree : -(3 : Fin 5) = 2 := rfl
  have hfour : -(4 : Fin 5) = 1 := rfl
  simp only [columnMix, rotateLeft_of_mod_eq_zero, Nat.reduceMod, sub_eq_add_neg, hthree, hfour, add_assoc,
    Fin.reduceAdd]
  simp only [BitVec.xor_assoc, BitVec.xor_comm, lane_xor_left_comm, BitVec.xor_self, lane_xor_cancel_left,
    BitVec.xor_zero]

/-- Doubling the offsets (1, 1) six times gives (4, 64). -/
theorem columnMix_one_injective : Function.Injective (columnMix 1 1) := by
  have hpower : Function.Injective (columnMix 4 64) := Function.LeftInverse.injective columnMix_three_columnMix_four
  iterate 6 refine columnMix_injective_of_double ?_
  exact hpower

/-- The parity of five lanes, each changed by `d`, has changed by `d`. -/
theorem xor_five_changed (a₀ a₁ a₂ a₃ a₄ d : Lane) :
    (a₀ ^^^ d) ^^^ (a₁ ^^^ d) ^^^ (a₂ ^^^ d) ^^^ (a₃ ^^^ d) ^^^ (a₄ ^^^ d) =
      (a₀ ^^^ a₁ ^^^ a₂ ^^^ a₃ ^^^ a₄) ^^^ d := by
  simp only [BitVec.xor_assoc, BitVec.xor_comm, lane_xor_left_comm, lane_xor_cancel_left]

/-- Theta on the column parities: each column's five lanes change by the same value. -/
theorem columnParity_theta (A : Lanes) : columnParity (theta A) = columnMix 1 1 (columnParity A) := by
  funext x
  have hleft : x - 1 = x + 4 := sub_eq_add_neg x 1
  rw [columnMix, hleft, ← rotl64_eq_rotateLeft _ (by decide), columnParity_eq, columnParity_eq A x]
  simp only [theta_laneIndex]
  exact xor_five_changed _ _ _ _ _ _

/-- The parities before Theta follow from those after it, and with them what Theta adds to each lane. -/
theorem theta_injective : Function.Injective theta := by
  intro A B h
  have hparity : columnParity A = columnParity B :=
    columnMix_one_injective (by rw [← columnParity_theta, ← columnParity_theta, h])
  refine lanes_ext fun i => ?_
  have hlane : (theta A)[i] = (theta B)[i] := by rw [h]
  rwa [theta_lane, theta_lane, hparity, BitVec.xor_left_inj] at hlane

/-! ### The round and KeccakF -/

/-- There are finitely many lane arrays, so an injective map on them is a bijection. -/
theorem lanes_bijective_of_injective {f : Lanes → Lanes} (hf : Function.Injective f) : Function.Bijective f := by
  have hlanes : Function.Injective fun (A : Lanes) (i : Fin 25) => A[i] := fun A B h => lanes_ext (congrFun h)
  have hfinite := Finite.of_injective _ hlanes
  exact Finite.injective_iff_bijective.mp hf

theorem keccakRound_bijective (r : Fin 24) : Function.Bijective fun A : Lanes => keccakRound A r :=
  lanes_bijective_of_injective
    ((iota_injective r).comp (chi_injective.comp (rhoPi_injective.comp theta_injective)))

/-- Rounds in any order, any number of them. -/
theorem foldl_keccakRound_bijective : ∀ rs : List (Fin 24), Function.Bijective fun A : Lanes => rs.foldl keccakRound A
  | [] => Function.bijective_id
  | r :: rs => (foldl_keccakRound_bijective rs).comp (keccakRound_bijective r)

/-- Settles O10: each step of a round is injective, Theta by its action on the column parities; the lane arrays are
finitely many. -/
theorem keccakFIsABijection : Obligations.KeccakFIsABijection := by
  unfold Obligations.KeccakFIsABijection
  refine ⟨keccakRound_bijective, ?_⟩
  have hfold : keccakF = fun A => (List.finRange 24).foldl keccakRound A := funext fun A => by rw [keccakF]
  rw [hfold]
  exact foldl_keccakRound_bijective _

end Sys2Proof.Machine
end

section
/-! The lane codec (R111), AbsorbXor (R112) and Extract (R113), byte by byte over the state byte space (R41). -/

namespace Sys2Proof.Machine

/-! ### The lane codec (R110, R111) -/

/-- Byte `k` of a byte moved to place `j`. -/
theorem laneByte_setWidth_shiftLeft (x : Byte) (j : Nat) {k : Nat} (hk : k < 8) :
    laneByte (x.setWidth 64 <<< (8 * j)) k = if k = j then x else 0#8 := by
  refine BitVec.eq_of_getLsbD_eq fun i hi => ?_
  have hbit : 8 * k + i < 64 := by omega
  rw [laneByte_getLsbD, BitVec.getLsbD_shiftLeft, BitVec.getLsbD_setWidth]
  obtain hkj | rfl | hjk := Nat.lt_trichotomy k j
  · have hbelow : 8 * k + i < 8 * j := by omega
    simp [hkj.ne, hbelow]
  · have hlane : i < 64 := by omega
    simp [hi, hbit, hlane]
  · have habove : 8 ≤ 8 * k + i - 8 * j := by omega
    simp [hjk.ne', BitVec.getLsbD_of_ge x _ habove]

theorem laneByte_or (v w : Lane) (k : Nat) : laneByte (v ||| w) k = laneByte v k ||| laneByte w k :=
  BitVec.extractLsb'_or

theorem laneByte_xor (v w : Lane) (k : Nat) : laneByte (v ^^^ w) k = laneByte v k ^^^ laneByte w k :=
  BitVec.extractLsb'_xor

/-- R110: byte `k` of `le64(b 0, ..., b 7)` is `b k`. -/
theorem laneByte_le64 (b : Nat → Byte) {k : Nat} (hk : k < 8) :
    laneByte (le64 (b 0) (b 1) (b 2) (b 3) (b 4) (b 5) (b 6) (b 7)) k = b k := by
  have hfirst : (b 0).setWidth 64 = (b 0).setWidth 64 <<< (8 * 0) := (BitVec.shiftLeft_zero _).symm
  have hplace (j : Nat) := laneByte_setWidth_shiftLeft (b j) j hk
  rw [le64, hfirst]
  simp only [laneByte_or, hplace 0, hplace 1, hplace 2, hplace 3, hplace 4, hplace 5, hplace 6, hplace 7]
  interval_cases k <;> simp

/-- R111: `le64(bytes64(v)) = v`. -/
theorem le64_laneByte (v : Lane) :
    le64 (laneByte v 0) (laneByte v 1) (laneByte v 2) (laneByte v 3) (laneByte v 4) (laneByte v 5) (laneByte v 6)
      (laneByte v 7) = v :=
  lane_ext fun _ hk => laneByte_le64 (laneByte v) hk

theorem getElem_bytes64 (v : Lane) {k : Nat} (hk : k < (bytes64 v).length) : (bytes64 v)[k] = laneByte v k := by
  rw [bytes64_length] at hk
  interval_cases k <;> rfl

/-- R111: `bytes64(le64(b)) = b`. -/
theorem bytes64_le64 (b0 b1 b2 b3 b4 b5 b6 b7 : Byte) :
    bytes64 (le64 b0 b1 b2 b3 b4 b5 b6 b7) = [b0, b1, b2, b3, b4, b5, b6, b7] := by
  refine List.ext_getElem rfl fun k hk hk' => ?_
  rw [getElem_bytes64, List.getElem_eq_getD 0]
  exact laneByte_le64 ([b0, b1, b2, b3, b4, b5, b6, b7].getD · 0) hk

/-- Settles O11: the layout by definition, the round trips by `le64_laneByte` and `bytes64_le64`. -/
theorem laneBytesRoundTrip : Obligations.LaneBytesRoundTrip := by
  unfold Obligations.LaneBytesRoundTrip
  exact ⟨fun _ => rfl, le64_laneByte, bytes64_le64⟩

/-! ### AbsorbXor (R112) -/

/-- Byte `k` of a block's `l`-th group is the block's byte `8l + k`. -/
theorem laneByte_blockLane (P : List Byte) (l : Nat) {k : Nat} (hk : k < 8) :
    laneByte (blockLane P l) k = P.getD (8 * l + k) 0 :=
  laneByte_le64 (fun j => P.getD (8 * l + j) 0) hk

theorem rBytes_eq_mul_rLanes (v : Variant) : v.rBytes = 8 * v.rLanes := by cases v <;> rfl

theorem outBytes_eq_mul_outLanes (v : Variant) : v.outBytes = 8 * v.outLanes := by cases v <;> rfl

/-- AbsorbXor at one byte: R112's second form. -/
theorem sbRead_absorbXor (v : Variant) (A : Lanes) (P : List Byte) (b : Fin 200) :
    sbRead (absorbXor v A P) b = if b.val < v.rBytes then sbRead A b ^^^ P.getD b.val 0 else sbRead A b := by
  have hrate : b.val < v.rBytes ↔ b.val / 8 < v.rLanes := by
    rw [rBytes_eq_mul_rLanes]
    omega
  have hlane := absorbXor_lane v A P ⟨b.val / 8, by omega⟩
  simp only [Fin.getElem_fin] at hlane
  rw [sbRead, hlane, sbRead]
  by_cases hb : b.val / 8 < v.rLanes
  · rw [if_pos hb, if_pos (hrate.mpr hb), laneByte_xor, laneByte_blockLane P _ (Nat.mod_lt _ (by decide)),
      Nat.div_add_mod]
  · rw [if_neg hb, if_neg (hrate.not.mpr hb)]

/-- Settles O14: `absorbXor_lane` with the group written out, and `sbRead_absorbXor`. -/
theorem absorbXorByBytes : Obligations.AbsorbXorByBytes := by
  unfold Obligations.AbsorbXorByBytes
  exact fun v A P _ => ⟨absorbXor_lane v A P, sbRead_absorbXor v A P⟩

/-! ### Extract (R113) -/

/-- A lane's bytes are the eight bytes of the byte space from `8l`. -/
theorem bytes64_lane (A : Lanes) (l : Fin 25) :
    bytes64 A[l] = (((List.finRange 200).drop (8 * l.val)).take 8).map (sbRead A) := by
  refine List.ext_getElem ?length fun k hk _ => ?byte
  case length =>
    simp only [bytes64_length, List.length_map, List.length_take, List.length_drop, List.length_finRange]
    omega
  case byte =>
    rw [getElem_bytes64, ← sbRead_lane A l hk]
    simp

/-- The bytes of the first `n` lanes are the first `8n` bytes of the byte space. -/
theorem flatMap_bytes64_take (A : Lanes) :
    ∀ {n : Nat}, n ≤ 25 →
      ((List.finRange 25).take n).flatMap (fun l => bytes64 A[l]) = ((List.finRange 200).take (8 * n)).map (sbRead A)
  | 0, _ => rfl
  | n + 1, hn => by
    have hlt : n < 25 := hn
    have hlane : (List.finRange 25).take (n + 1) = (List.finRange 25).take n ++ [⟨n, hlt⟩] := by
      simp [List.take_add_one, hlt]
    rw [hlane, List.flatMap_append, flatMap_bytes64_take A (Nat.le_of_lt hn), List.flatMap_singleton, bytes64_lane,
      Nat.mul_succ, List.take_add, List.map_append]

theorem extract_eq_flatMap (v : Variant) (A : Lanes) :
    extract v A = ((List.finRange 25).take v.outLanes).flatMap (fun l => bytes64 A[l]) := by
  have hlanes : A.toList = (List.finRange 25).map fun l => A[l] := List.ext_getElem (by simp) (by simp)
  rw [extract, hlanes, ← List.map_take, List.flatMap_map]

theorem outLanes_le (v : Variant) : v.outLanes ≤ 25 := by cases v <;> decide

/-- Settles O16: the output lanes' bytes by `extract_eq_flatMap`, which are the first `8 * OUT_LANES` bytes of the byte
space. -/
theorem extractIsTheFirstStateBytes : Obligations.ExtractIsTheFirstStateBytes := by
  unfold Obligations.ExtractIsTheFirstStateBytes
  intro v A
  refine ⟨extract_eq_flatMap v A, ?_⟩
  rw [extract_eq_flatMap, flatMap_bytes64_take A (outLanes_le v), outBytes_eq_mul_outLanes]

end Sys2Proof.Machine
end

section
/-! The padded block (R131), and any request answered by the rules' own account of it (R66, R130, R162). -/

namespace Sys2Proof.Machine

open Safety

/-! ### The padded block (R131) -/

/-- A list with one place written, at any place: a write past the end does nothing. -/
theorem getD_set (l : List Byte) (i k : Nat) (x : Byte) :
    (l.set i x).getD k 0 = if i = k ∧ k < l.length then x else l.getD k 0 := by
  simp only [List.getD_eq_getElem?_getD, List.getElem?_set]
  split_ifs <;> simp_all

/-- The message bytes in the zeroed buffer: past the message, as past its end, a byte reads as 0. -/
theorem getD_append_zeros (D : List Byte) (n k : Nat) : (D ++ List.replicate n 0x00#8).getD k 0 = D.getD k 0 := by
  obtain hk | hk := Nat.lt_or_ge k D.length
  · exact List.getD_append _ _ _ _ hk
  · rw [List.getD_append_right _ _ _ _ hk, List.getD_eq_default _ _ hk]
    rw [List.getD_eq_getElem?_getD, List.getElem?_replicate]
    split <;> rfl

/-- The block with its first marker, before the last byte is marked: `P[n] = 0x01` (R131). -/
def firstMarked (v : Variant) (D : List Byte) : List Byte :=
  (D ++ List.replicate (v.rBytes - D.length) 0x00#8).set D.length 0x01#8

theorem pad_eq_set_firstMarked (v : Variant) (D : List Byte) :
    pad v D = (firstMarked v D).set (v.rBytes - 1) ((firstMarked v D).getD (v.rBytes - 1) 0 ||| 0x80#8) := rfl

theorem firstMarked_length {v : Variant} {D : List Byte} (hD : D.length ≤ v.rBytes - 1) :
    (firstMarked v D).length = v.rBytes := by
  simp only [firstMarked, List.length_set, List.length_append, List.length_replicate]
  omega

/-- The first marker goes at offset `n`, which is not below `n`; past it the buffer is still zero. -/
theorem getD_firstMarked {v : Variant} {D : List Byte} (hD : D.length ≤ v.rBytes - 1) (k : Nat) :
    (firstMarked v D).getD k 0 =
      if k < D.length then D.getD k 0 else if k = D.length then 0x01#8 else 0x00#8 := by
  have hpos := rBytes_pos v
  rw [firstMarked, getD_set, getD_append_zeros, List.length_append, List.length_replicate]
  obtain hk | rfl | hk := Nat.lt_trichotomy k D.length
  · rw [if_neg (by omega), if_pos hk]
  · rw [if_pos (by omega), if_neg (lt_irrefl _), if_pos rfl]
  · rw [if_neg (by omega), if_neg (by omega), if_neg (by omega)]
    exact List.getD_eq_default _ _ hk.le

/-- R131's block, byte by byte: the second marker is or-ed into the last byte, whatever it holds. -/
theorem getD_pad {v : Variant} {D : List Byte} (hD : D.length ≤ v.rBytes - 1) {k : Nat} (hk : k < v.rBytes) :
    (pad v D).getD k 0 =
      (if k < D.length then D.getD k 0 else if k = D.length then 0x01#8 else 0x00#8) |||
        (if k = v.rBytes - 1 then 0x80#8 else 0x00#8) := by
  rw [pad_eq_set_firstMarked, getD_set, firstMarked_length hD, ← getD_firstMarked hD]
  by_cases hlast : k = v.rBytes - 1
  · rw [if_pos ⟨hlast.symm, hk⟩, if_pos hlast, hlast]
  · rw [if_neg fun h => hlast h.1.symm, if_neg hlast, BitVec.or_zero]

/-- Settles O17: the length by `pad_length`, the bytes by `getD_pad`. -/
theorem padBytes : Obligations.PadBytes := by
  unfold Obligations.PadBytes
  exact fun v D hD => ⟨pad_length v D (hD.trans (Nat.sub_le _ _)), fun k => getD_pad hD⟩

/-! ### Answering any request -/

theorem verdict_of_not_legal {v : Variant} {cw : Word32} (p : Phase) (hlegal : legal v cw = false) :
    verdict v cw p = .errIllegal := if_pos hlegal

/-- A step at any framed request. -/
theorem step_holdsRequest {s : State} {q : Request} {rest : List Byte} (h : HoldsRequest s q rest) :
    step s = .next
      { s with
        lanes := lanesAfter s.variant q.word q.payload s.phase s.lanes
        phase := phaseAfter s.variant q.word s.phase
        parser := []
        cmdPort := rest
        respPort := responseTo s.variant q.word s.phase s.lanes } := by
  cases hlegal : legal s.variant q.word with
  | true => exact step_of_legal h hlegal
  | false =>
    rw [illegalWordIsRefusedWithoutEffect s q rest h hlegal]
    simp [lanesAfter, phaseAfter, responseTo, verdict_of_not_legal s.phase hlegal, Status.code]

/-- Settles O25: a legal word by the rules' own account, an illegal one with ERR_ILLEGAL and no
effect, which is their account too. -/
theorem requestIsAnsweredAsTheRulesSay : Obligations.RequestIsAnsweredAsTheRulesSay := by
  unfold Obligations.RequestIsAnsweredAsTheRulesSay
  exact fun s q rest => step_holdsRequest

end Sys2Proof.Machine
end

section
/-! The six commands (R132 to R137): what each does in each phase, its word, and that its OP has no other legal word. -/

namespace Sys2Proof.Machine

open Safety

/-! ### The words of an OP (R65 to R67) -/

/-- A legal word is the word of a command the variant admits. -/
theorem exists_word_of_legal {v : Variant} {cw : Word32} (hlegal : legal v cw = true) :
    ∃ i : Instr, i.wellFormed v = true ∧ cw = i.word := by
  have hlen : (List.replicate (lenField cw) (0x00#8 : Byte)).length = lenField cw := List.length_replicate
  obtain ⟨i, hdec⟩ := exists_decodeWord_of_legal (List.replicate (lenField cw) 0x00#8) hlegal
  obtain ⟨hrsvd, hop, hpayload⟩ := fields_of_decodeWord hlen hdec
  have hwf : i.wellFormed v = true := (legal_eq_wellFormed v hlen hdec).symm.trans hlegal
  obtain ⟨hop', hlen', hrsvd'⟩ := fields_of_word i (encodable_of_wellFormed hwf)
  rw [hpayload] at hlen
  exact ⟨i, hwf, commandWord_ext (hop.trans hop'.symm) (hlen.symm.trans hlen'.symm) (hrsvd.trans hrsvd'.symm)⟩

/-- Where every admitted command of an OP has a word the rule admits, the OP's other words are illegal. -/
theorem otherWordsAreIllegal {op : Byte} {admitted : Variant → Word32 → Prop}
    (h : ∀ (v : Variant) (i : Instr), i.wellFormed v = true → i.op = op → admitted v i.word) :
    OtherWordsAreIllegal op admitted := by
  intro s q rest hq hop hother
  refine illegalWordIsRefusedWithoutEffect s q rest hq (Bool.eq_false_iff.mpr fun hlegal => hother ?_)
  obtain ⟨i, hwf, hword⟩ := exists_word_of_legal hlegal
  obtain ⟨hop', -, -⟩ := fields_of_word i (encodable_of_wellFormed hwf)
  rw [hword] at hop ⊢
  exact h s.variant i hwf (hop'.symm.trans hop)

/-- A command whose LEN must be 0 is the only one with its OP (R65). -/
theorem eq_of_op_eq {i j : Instr} (hj : j ∈ [Instr.init, .squeeze, .abort, .query]) (hop : i.op = j.op) : i = j := by
  fin_cases hj <;> cases i <;> simp_all [Instr.op]

/-- A command whose LEN must be 0 has one word, and the other words of its OP are illegal. -/
theorem otherWordsAreIllegal_of_len_zero {j : Instr} (hj : j ∈ [Instr.init, .squeeze, .abort, .query]) :
    OtherWordsAreIllegal j.op fun _ cw => cw = j.word :=
  otherWordsAreIllegal fun _ _ _ hop => by rw [eq_of_op_eq hj hop]

theorem eq_absorb_of_op {i : Instr} (h : i.op = 0x02) : ∃ block : List Byte, i = .absorb block := by
  cases i <;> simp_all [Instr.op]

theorem eq_final_of_op {i : Instr} (h : i.op = 0x03) : ∃ msg : List Byte, i = .final msg := by
  cases i <;> simp_all [Instr.op]

/-! ### INIT (R132) -/

theorem exec_init (s : State) :
    exec .init s = .next (((s.setLanes zeroLanes).setPhase .absorb).respond .ok []) := rfl

/-- Settles O32: INIT has one effect in every phase, and no other command has its OP. -/
theorem initStartsAMessage : Obligations.InitStartsAMessage := by
  unfold Obligations.InitStartsAMessage
  exact ⟨exec_init, rfl, otherWordsAreIllegal_of_len_zero (j := .init) (by simp)⟩

/-! ### ABSORB (R133) -/

theorem exec_absorb_of_absorb {s : State} {block : List Byte} (hlen : block.length = s.variant.rBytes)
    (hphase : s.phase = .absorb) : exec (.absorb block) s = .next ((s.absorbBlock block).respond .ok []) := by
  simp [exec, execAbsorb, absorbLenAdmitted, payloadLen, hlen, hphase]

theorem exec_absorb_of_ne_absorb {s : State} {block : List Byte} (hlen : block.length = s.variant.rBytes)
    (hphase : s.phase ≠ .absorb) : exec (.absorb block) s = .next (s.raise .errSequence) := by
  cases h : s.phase with
  | absorb => exact absurd h hphase
  | _ => simp [exec, execAbsorb, absorbLenAdmitted, payloadLen, hlen, h]

/-- The one legal word of ABSORB in each variant (R133). -/
def absorbWord : Variant → Word32
  | .keccak256 => 0x00008802
  | .keccak512 => 0x00004802

theorem word_absorb {v : Variant} {block : List Byte} (hlen : block.length = v.rBytes) :
    (Instr.absorb block).word = absorbWord v := by
  rw [Instr.word, Instr.op, Instr.payload, hlen]
  cases v <;> decide

/-- Settles O33: the two cases of PHASE, and the one word with OP 0x02 that the variant admits. -/
theorem absorbPermutesOneBlock : Obligations.AbsorbPermutesOneBlock := by
  unfold Obligations.AbsorbPermutesOneBlock
  refine ⟨fun s block hlen => ⟨exec_absorb_of_absorb hlen, exec_absorb_of_ne_absorb hlen, word_absorb hlen⟩,
    otherWordsAreIllegal fun v i hwf hop => ?_⟩
  obtain ⟨block, rfl⟩ := eq_absorb_of_op hop
  exact word_absorb ((wellFormed_absorb v block).mp hwf)

/-! ### FINAL (R134) -/

theorem exec_final_of_absorb {s : State} {msg : List Byte} (hlen : msg.length ≤ s.variant.rBytes - 1)
    (hphase : s.phase = .absorb) :
    exec (.final msg) s = .next (((s.absorbBlock (pad s.variant msg)).setPhase .done).respond .ok []) := by
  simp [exec, execFinal, finalLenAdmitted, payloadLen, hlen, hphase]

theorem exec_final_of_ne_absorb {s : State} {msg : List Byte} (hlen : msg.length ≤ s.variant.rBytes - 1)
    (hphase : s.phase ≠ .absorb) : exec (.final msg) s = .next (s.raise .errSequence) := by
  cases h : s.phase with
  | absorb => exact absurd h hphase
  | _ => simp [exec, execFinal, finalLenAdmitted, payloadLen, hlen, h]

/-- FINAL's word, whose LEN fits its 8 bits. -/
theorem word_final {v : Variant} {msg : List Byte} (hlen : msg.length ≤ v.rBytes - 1) :
    (Instr.final msg).word = 0x00000003#32 ||| BitVec.ofNat 32 msg.length <<< 8 := by
  have hencodable := encodable_of_wellFormed ((wellFormed_final v msg).mpr hlen)
  have hbyte : msg.length ≤ 255 := (encodable_iff _).mp hencodable
  have hwidth : (BitVec.ofNat 8 msg.length).setWidth 32 = BitVec.ofNat 32 msg.length := by
    refine BitVec.eq_of_toNat_eq ?_
    simp only [BitVec.toNat_setWidth, BitVec.toNat_ofNat]
    omega
  rw [Instr.word, Instr.payload, hwidth]
  rfl

/-- Settles O34: the two cases of PHASE; a legal word with OP 0x03 is an admitted FINAL's, with
`n < R_BYTES` and RSVD 0. -/
theorem finalClosesTheMessage : Obligations.FinalClosesTheMessage := by
  unfold Obligations.FinalClosesTheMessage
  refine ⟨fun s msg hlen => ⟨exec_final_of_absorb hlen, exec_final_of_ne_absorb hlen, word_final hlen⟩,
    otherWordsAreIllegal fun v i hwf hop => ?_⟩
  obtain ⟨msg, rfl⟩ := eq_final_of_op hop
  obtain ⟨-, hlen, hrsvd⟩ := fields_of_word _ (encodable_of_wellFormed hwf)
  have hmsg := (wellFormed_final v msg).mp hwf
  have hpos := rBytes_pos v
  refine ⟨?_, hrsvd⟩
  rw [hlen, Instr.payload]
  omega

/-! ### SQUEEZE (R135) -/

theorem exec_squeeze_of_done {s : State} (hphase : s.phase = .done) :
    exec .squeeze s = .next (s.respond .ok (extract s.variant s.lanes)) := by
  simp only [exec, execSqueeze, hphase]

theorem exec_squeeze_of_aborted {s : State} (hphase : s.phase = .aborted) :
    exec .squeeze s = .next (s.raise .errIo) := by
  simp only [exec, execSqueeze, hphase]

theorem exec_squeeze_of_idle_or_absorb {s : State} (hphase : s.phase = .idle ∨ s.phase = .absorb) :
    exec .squeeze s = .next (s.raise .errSequence) := by
  obtain hphase | hphase := hphase <;> simp only [exec, execSqueeze, hphase]

/-- Settles O35: the cases of PHASE; the digest's second form is `extractIsTheFirstStateBytes`. -/
theorem squeezeReturnsTheDigest : Obligations.SqueezeReturnsTheDigest := by
  unfold Obligations.SqueezeReturnsTheDigest
  refine ⟨fun s => ⟨fun hphase => ⟨exec_squeeze_of_done hphase, ?_⟩, exec_squeeze_of_aborted,
    exec_squeeze_of_idle_or_absorb⟩, rfl, otherWordsAreIllegal_of_len_zero (j := .squeeze) (by simp)⟩
  obtain ⟨-, hextract⟩ := extractIsTheFirstStateBytes s.variant s.lanes
  rw [← hextract]
  exact exec_squeeze_of_done hphase

/-! ### ABORT (R136) -/

theorem exec_abort_of_absorb {s : State} (hphase : s.phase = .absorb) :
    exec .abort s = .next ((s.setPhase .aborted).respond .ok []) := by
  simp only [exec, execAbort, hphase]

theorem exec_abort_of_ne_absorb {s : State} (hphase : s.phase ≠ .absorb) :
    exec .abort s = .next (s.raise .errSequence) := by
  cases h : s.phase with
  | absorb => exact absurd h hphase
  | _ => simp only [exec, execAbort, h]

/-- INIT is the only way out of ABORTED: every other effect that changes PHASE is admitted in ABSORB only (R130). -/
theorem phase_of_exec_of_aborted {i : Instr} {s t : State} (hphase : s.phase = .aborted) (hi : i ≠ .init)
    (hexec : exec i s = .next t) : t.phase = .aborted := by
  obtain ⟨st, -, heq⟩ | ⟨hinit, -⟩ | ⟨_, -, hother, -⟩ | ⟨_, -, hother, -⟩ | ⟨-, hother, -⟩ | ⟨-, hother, -⟩ |
    ⟨-, heq⟩ := exec_cases i s
  case inl | inr.inr.inr.inr.inr.inr =>
    cases heq.symm.trans hexec
    exact hphase
  case inr.inl => exact absurd hinit hi
  all_goals exact absurd (hother.symm.trans hphase) (by decide)

/-- Settles O36: the two cases of PHASE; in ABORTED the refusals of SQUEEZE, ABSORB and FINAL, and
`phase_of_exec_of_aborted`. -/
theorem abortKeepsTheLanes : Obligations.AbortKeepsTheLanes := by
  unfold Obligations.AbortKeepsTheLanes
  refine ⟨fun s => ⟨exec_abort_of_absorb, exec_abort_of_ne_absorb⟩, fun s hphase => ?_, rfl,
    otherWordsAreIllegal_of_len_zero (j := .abort) (by simp)⟩
  have hne : s.phase ≠ .absorb := by simp [hphase]
  exact ⟨exec_squeeze_of_aborted hphase, fun _ hlen => exec_absorb_of_ne_absorb hlen hne,
    fun _ hlen => exec_final_of_ne_absorb hlen hne, fun _ _ hi => phase_of_exec_of_aborted hphase hi⟩

/-! ### QUERY (R137) -/

/-- The QUERY word's bytes: PHASE with its reserved bits, VARIANT with its, the rate and the output length (R28). -/
theorem wordBytes_queryWord (p : Phase) (v : Variant) :
    wordBytes (queryWord p v) =
      [p.code.setWidth 8, BitVec.ofNat 8 v.code, BitVec.ofNat 8 v.rBytes, BitVec.ofNat 8 v.outBytes] := by
  rw [wordBytes, queryWord_rate, queryWord_outLen]
  cases p <;> cases v <;> rfl

/-- Settles O37: QUERY never looks at PHASE, and its data bytes are `wordBytes_queryWord`. -/
theorem queryReportsPhaseAndVariant : Obligations.QueryReportsPhaseAndVariant := by
  unfold Obligations.QueryReportsPhaseAndVariant
  refine ⟨fun s => ?_, rfl, otherWordsAreIllegal_of_len_zero (j := .query) (by simp)⟩
  rw [← wordBytes_queryWord]
  rfl

end Sys2Proof.Machine
end

section
/-! Runs without a reset: the bytes sent are requests, and the response stream is theirs (R52, R140). -/

namespace Sys2Proof.Machine

open Safety

/-! ### Requests one after another (R52) -/

@[simp] theorem afterRequests_nil (v : Variant) (σ : Lanes × Phase) : afterRequests v σ [] = σ := rfl

@[simp] theorem afterRequests_cons (v : Variant) (σ : Lanes × Phase) (q : Request) (qs : List Request) :
    afterRequests v σ (q :: qs) = afterRequests v (afterRequest v σ q) qs := rfl

theorem afterRequests_append (v : Variant) (σ : Lanes × Phase) (qs qs' : List Request) :
    afterRequests v σ (qs ++ qs') = afterRequests v (afterRequests v σ qs) qs' := List.foldl_append

@[simp] theorem responseStream_nil (v : Variant) (σ : Lanes × Phase) : responseStream v σ [] = [] := rfl

@[simp] theorem responseStream_cons (v : Variant) (σ : Lanes × Phase) (q : Request) (qs : List Request) :
    responseStream v σ (q :: qs) = responseTo v q.word σ.2 σ.1 ++ responseStream v (afterRequest v σ q) qs := rfl

/-- The later requests are answered in the state the earlier ones leave. -/
theorem responseStream_append (v : Variant) (σ : Lanes × Phase) (qs qs' : List Request) :
    responseStream v σ (qs ++ qs') =
      responseStream v σ qs ++ responseStream v (afterRequests v σ qs) qs' := by
  induction qs generalizing σ with
  | nil => rfl
  | cons q qs ih => simp [ih]

/-! ### What a stretch of a run answers -/

/-- From `s` to `t`, with the bytes `sent` in between, the core has answered the requests `qs`, in order: they are what
it held and was sent, but for what it holds now, and what it was still to deliver, then their responses, has been
delivered, but for what it is to deliver now. -/
structure Answers (s : State) (sent : List Byte) (qs : List Request) (t : State) : Prop where
  framed : ∀ q ∈ qs, q.framed = true
  requests : (s.parser ++ s.cmdPort) ++ sent = qs.flatMap Request.bytes ++ (t.parser ++ t.cmdPort)
  responses : t.received ++ t.respPort =
    (s.received ++ s.respPort) ++ responseStream s.variant (s.lanes, s.phase) qs
  state : (t.lanes, t.phase) = afterRequests s.variant (s.lanes, s.phase) qs
  variant : t.variant = s.variant

/-- Stretches of a run, one after another. -/
theorem Answers.trans {s t u : State} {sent sent' : List Byte} {qs qs' : List Request} (h : Answers s sent qs t)
    (h' : Answers t sent' qs' u) : Answers s (sent ++ sent') (qs ++ qs') u where
  framed q hq := (List.mem_append.mp hq).elim (h.framed q) (h'.framed q)
  requests := by
    rw [← List.append_assoc, h.requests, List.append_assoc, h'.requests, List.flatMap_append, List.append_assoc]
  responses := by
    rw [h'.responses, h.responses, h.variant, h.state, responseStream_append, List.append_assoc]
  state := by rw [h'.state, h.variant, h.state, afterRequests_append]
  variant := h'.variant.trans h.variant

/-- A stretch that answers no request: the core holds what it held and was sent, and it delivers at most what it was
still to deliver. -/
theorem Answers.of_frame {s t : State} {sent : List Byte}
    (hrequests : t.parser ++ t.cmdPort = (s.parser ++ s.cmdPort) ++ sent)
    (hresponses : t.received ++ t.respPort = s.received ++ s.respPort) (hlanes : t.lanes = s.lanes)
    (hphase : t.phase = s.phase) (hvariant : t.variant = s.variant) : Answers s sent [] t where
  framed := by simp
  requests := hrequests.symm
  responses := by rw [hresponses, responseStream_nil, List.append_nil]
  state := by rw [hlanes, hphase, afterRequests_nil]
  variant := hvariant

/-- A step with a response pending, or without a complete request, answers none; otherwise it answers one. -/
theorem answers_step {s t : State} (hstep : step s = .next t) : ∃ qs : List Request, Answers s [] qs t := by
  by_cases hport : s.respPort = []
  case neg =>
    cases (step_pending hport).symm.trans hstep
    obtain ⟨hlanes, hphase, hvariant, hparser, hcmd, -, hresponses, -⟩ := s.deliver_frame
    exact ⟨[], .of_frame (by rw [hparser, hcmd, List.append_nil]) hresponses hlanes hphase hvariant⟩
  case pos =>
    obtain hdec | ⟨cw, D, rest, hlen, hbytes⟩ := request_cases (s.parser ++ s.cmdPort)
    · cases (step_incomplete hport hdec).symm.trans hstep
      exact ⟨[], .of_frame (by simp) rfl rfl rfl rfl⟩
    · have hframed : (⟨cw, D⟩ : Request).framed = true := by simpa [Request.framed] using hlen
      cases (step_holdsRequest (q := ⟨cw, D⟩) ⟨hport, hbytes, hframed⟩).symm.trans hstep
      exact ⟨[⟨cw, D⟩], {
        framed := by simpa using hframed
        requests := by simp [hbytes, Request.bytes]
        responses := by simp [hport]
        state := rfl
        variant := rfl }⟩

/-- Every event but a reset answers the requests that become complete by it. -/
theorem answers_act {e : Event} {s t : State} (he : noReset [e] = true) (hact : act e s = .next t) :
    ∃ qs : List Request, Answers s (sentBytes [e]) qs t := by
  cases e with
  | core => exact answers_step hact
  | send bytes =>
    cases hact
    exact ⟨[], .of_frame (by simp [sentBytes]) rfl rfl rfl rfl⟩
  | ready on =>
    cases hact
    exact ⟨[], .of_frame (by simp [sentBytes]) rfl rfl rfl rfl⟩
  | reset A => cases he

theorem noReset_cons {e : Event} {es : List Event} :
    noReset (e :: es) = true ↔ noReset [e] = true ∧ noReset es = true := by
  simp [noReset]

theorem sentBytes_cons (e : Event) (es : List Event) : sentBytes (e :: es) = sentBytes [e] ++ sentBytes es := by
  simp [sentBytes]

/-- A run goes through the state its first event leaves. -/
theorem exists_act_of_runEvents_cons {e : Event} {es : List Event} {s t : State}
    (hrun : runEvents (e :: es) s = .next t) : ∃ s' : State, act e s = .next s' ∧ runEvents es s' = .next t := by
  unfold runEvents at hrun
  cases hact : act e s with
  | next s' => exact ⟨s', rfl, by simpa only [hact] using hrun⟩
  | fault r => cases r
  | refused r => simp [hact] at hrun

/-- Any run without a reset, from any state. -/
theorem answers_runEvents {es : List Event} {s t : State} (hes : noReset es = true)
    (hrun : runEvents es s = .next t) : ∃ qs : List Request, Answers s (sentBytes es) qs t := by
  induction es generalizing s with
  | nil =>
    cases hrun
    exact ⟨[], .of_frame (by simp [sentBytes]) rfl rfl rfl rfl⟩
  | cons e es ih =>
    obtain ⟨he, hes⟩ := noReset_cons.mp hes
    obtain ⟨s', hact, hrun⟩ := exists_act_of_runEvents_cons hrun
    obtain ⟨qs, hqs⟩ := answers_act he hact
    obtain ⟨qs', hqs'⟩ := ih hes hrun
    exact ⟨qs ++ qs', sentBytes_cons e es ▸ hqs.trans hqs'⟩

/-! ### The lanes before INIT (R32, R136, R140) -/

/-- Where the lanes are hidden, the phase table admits INIT, and QUERY, which keeps the phase, and no other command. -/
theorem phaseTable_of_lanesHidden {op : Nat} {p : Phase} (hp : lanesHidden p = true) :
    op = 1 ∨ (phaseTable op p).1 ≠ .ok ∨ (op = 6 ∧ (phaseTable op p).2 = p) := by
  unfold phaseTable
  split <;> simp_all [lanesHidden]

theorem legal_of_verdict_ok {v : Variant} {cw : Word32} {p : Phase} (h : verdict v cw p = .ok) :
    legal v cw = true := by
  cases hlegal : legal v cw with
  | true => rfl
  | false => simp [verdict_of_not_legal p hlegal] at h

/-- The same for a word: where the lanes are hidden, only INIT and QUERY are answered OK. -/
theorem op_of_verdict_ok_of_lanesHidden {v : Variant} {cw : Word32} {p : Phase} (hp : lanesHidden p = true)
    (hok : verdict v cw p = .ok) : opField cw = 0x01 ∨ (opField cw = 0x06 ∧ phaseAfter v cw p = p) := by
  rw [phaseAfter, if_pos hok]
  rw [verdict_of_legal p (legal_of_verdict_ok hok)] at hok
  obtain hop | hne | ⟨hop, hphase⟩ := phaseTable_of_lanesHidden (op := (opField cw).toNat) hp
  · exact .inl (BitVec.eq_of_toNat_eq hop)
  · exact absurd hok hne
  · exact .inr ⟨BitVec.eq_of_toNat_eq hop, hphase⟩

/-- Two lane arrays and phases that no command tells apart: the lanes may differ while they are hidden. -/
def SameToCommands (σ τ : Lanes × Phase) : Prop := σ.2 = τ.2 ∧ (lanesHidden σ.2 = false → σ.1 = τ.1)

theorem sameToCommands_idle (A B : Lanes) : SameToCommands (A, .idle) (B, .idle) :=
  ⟨rfl, fun hidden => by cases hidden⟩

/-- No response reads a hidden lane: SQUEEZE is refused. -/
theorem responseTo_eq_of_sameToCommands {σ τ : Lanes × Phase} (h : SameToCommands σ τ) (v : Variant) (cw : Word32) :
    responseTo v cw σ.2 σ.1 = responseTo v cw τ.2 τ.1 := by
  obtain ⟨A, p⟩ := σ
  obtain ⟨B, _⟩ := τ
  obtain ⟨rfl, hlanes⟩ := h
  cases hp : lanesHidden p with
  | false =>
    obtain rfl : A = B := hlanes hp
    rfl
  | true =>
    by_cases hok : verdict v cw p = .ok
    · obtain hop | ⟨hop, -⟩ := op_of_verdict_ok_of_lanesHidden hp hok <;> simp [responseTo, hop]
    · simp [responseTo, hok]

/-- No request makes hidden lanes readable: INIT, which alone ends the hiding, zeroes them. -/
theorem sameToCommands_afterRequest {σ τ : Lanes × Phase} (h : SameToCommands σ τ) (v : Variant) (q : Request) :
    SameToCommands (afterRequest v σ q) (afterRequest v τ q) := by
  obtain ⟨A, p⟩ := σ
  obtain ⟨B, _⟩ := τ
  obtain ⟨rfl, hlanes⟩ := h
  refine ⟨rfl, fun hafter => ?_⟩
  simp only [afterRequest] at hafter ⊢
  cases hp : lanesHidden p with
  | false =>
    obtain rfl : A = B := hlanes hp
    rfl
  | true =>
    by_cases hok : verdict v q.word p = .ok
    · obtain hop | ⟨-, hphase⟩ := op_of_verdict_ok_of_lanesHidden hp hok
      · simp [lanesAfter, hok, hop]
      · rw [hphase, hp] at hafter
        cases hafter
    · rw [phaseAfter, if_neg hok, hp] at hafter
      cases hafter

theorem responseStream_eq_of_sameToCommands {σ τ : Lanes × Phase} (h : SameToCommands σ τ) (v : Variant)
    (qs : List Request) : responseStream v σ qs = responseStream v τ qs := by
  induction qs generalizing σ τ with
  | nil => rfl
  | cons q qs ih =>
    rw [responseStream_cons, responseStream_cons, responseTo_eq_of_sameToCommands h,
      ih (sameToCommands_afterRequest h v q)]

/-- Settles O51: from empty ports the bytes held and the responses pending are none, so `answers_runEvents` is the
claim; in IDLE any two lane arrays are the same to commands. -/
theorem responsesAreAFunctionOfTheCommandStream : Obligations.ResponsesAreAFunctionOfTheCommandStream := by
  unfold Obligations.ResponsesAreAFunctionOfTheCommandStream
  refine ⟨fun es s t hes hparser hcmd hport hrun => ?_, fun v A B qs => ?_⟩
  · obtain ⟨qs, hframed, hrequests, hresponses, hstate, -⟩ := answers_runEvents hes hrun
    rw [hparser, hcmd] at hrequests
    rw [hport, List.append_nil] at hresponses
    exact ⟨qs, hframed, hrequests, hresponses, hstate⟩
  · exact responseStream_eq_of_sameToCommands (sameToCommands_idle A B) v qs

end Sys2Proof.Machine
end

section
/-! The HASH command sequence, run on a quiet core, answers the digest (R138, R139). -/

namespace Sys2Proof.Machine

open Safety

/-! ### Steps of the core alone -/

/-- The core, left alone, comes from `s` to `t`. -/
abbrev Reaches : State → State → Prop := Relation.ReflTransGen fun s t => step s = .next t

theorem exists_run_of_reaches {s t : State} (h : Reaches s t) : ∃ k : Nat, Host.Core.run core k s = .next t := by
  induction h using Relation.ReflTransGen.head_induction_on with
  | refl => exact ⟨0, rfl⟩
  | head hstep _ ih =>
    obtain ⟨k, hk⟩ := ih
    have hcore : core.step _ = .next _ := hstep
    exact ⟨k + 1, by simpa only [Host.Core.run, hcore] using hk⟩

/-- A pending response is delivered, if the host takes bytes. -/
theorem reaches_delivered {s : State} {resp : List Byte} (hready : s.respReady = true) (hresp : s.respPort = resp) :
    Reaches s { s with respPort := [], received := s.received ++ resp } := by
  induction resp generalizing s with
  | nil => rw [List.append_nil, ← hresp]
  | cons b bs ih =>
    have hstep := step_pending (s := s) (by simp [hresp])
    rw [State.deliver_ready hresp hready] at hstep
    have hrest := ih (s := { s with respPort := bs, received := s.received ++ [b] }) hready rfl
    rw [List.append_assoc] at hrest
    exact .head hstep hrest

/-- A quiet core, with its lanes and PHASE, and what its host has received. -/
def quietAt (v : Variant) (σ : Lanes × Phase) (received : List Byte) : State :=
  { State.resetWith v σ.1 with phase := σ.2, received := received }

theorem quiet_quietAt (v : Variant) (σ : Lanes × Phase) (received : List Byte) : Quiet (quietAt v σ received) :=
  ⟨rfl, rfl, rfl, rfl⟩

theorem eq_quietAt_of_quiet {s : State} (h : Quiet s) : s = quietAt s.variant (s.lanes, s.phase) s.received := by
  obtain ⟨A, p, v, parser, cmdPort, respPort, respReady, received⟩ := s
  obtain ⟨rfl, rfl, rfl, rfl⟩ := h
  rfl

/-- Requests sent to a quiet core are answered one after another, and leave it quiet. -/
theorem reaches_quietAt {v : Variant} {σ : Lanes × Phase} {received : List Byte} {qs : List Request}
    (hframed : ∀ q ∈ qs, q.framed = true) :
    Reaches ((quietAt v σ received).hostSend (qs.flatMap Request.bytes))
      (quietAt v (afterRequests v σ qs) (received ++ responseStream v σ qs)) := by
  induction qs generalizing σ received with
  | nil =>
    rw [responseStream_nil, List.append_nil]
    exact .refl
  | cons q qs ih =>
    obtain ⟨hq, hqs⟩ := List.forall_mem_cons.mp hframed
    have hholds : HoldsRequest ((quietAt v σ received).hostSend ((q :: qs).flatMap Request.bytes)) q
        (qs.flatMap Request.bytes) := ⟨rfl, rfl, hq⟩
    have hrest := ih (σ := afterRequest v σ q) (received := received ++ responseTo v q.word σ.2 σ.1) hqs
    rw [List.append_assoc] at hrest
    exact .head (step_holdsRequest hholds) ((reaches_delivered rfl rfl).trans hrest)

/-! ### The requests of commands -/

/-- The request of a command: its word and its payload (R61). -/
def commandRequest (i : Instr) : Request := ⟨i.word, i.payload⟩

theorem requestsOf_eq_flatMap (cmds : List Instr) :
    requestsOf cmds = (cmds.map commandRequest).flatMap Request.bytes := by
  rw [List.flatMap_map]
  rfl

theorem framed_commandRequest {v : Variant} {i : Instr} (h : i.wellFormed v = true) :
    (commandRequest i).framed = true := by
  obtain ⟨-, hlen, -⟩ := fields_of_word i (encodable_of_wellFormed h)
  simp [Request.framed, commandRequest, hlen]

theorem legal_word {v : Variant} {i : Instr} (h : i.wellFormed v = true) : legal v i.word = true := by
  obtain ⟨hop, hlen, hrsvd⟩ := fields_of_word i (encodable_of_wellFormed h)
  cases i <;> simp_all [legal, Instr.op, Instr.payload, Instr.wellFormed]

/-- From the lanes and PHASE `σ` the requests `qs` are answered with the bytes `resp`, and leave `σ'`. -/
def AnsweredWith (v : Variant) (σ : Lanes × Phase) (qs : List Request) (resp : List Byte) (σ' : Lanes × Phase) : Prop :=
  responseStream v σ qs = resp ∧ afterRequests v σ qs = σ'

theorem AnsweredWith.append {v : Variant} {σ σ' σ'' : Lanes × Phase} {qs qs' : List Request} {resp resp' : List Byte}
    (h : AnsweredWith v σ qs resp σ') (h' : AnsweredWith v σ' qs' resp' σ'') :
    AnsweredWith v σ (qs ++ qs') (resp ++ resp') σ'' := by
  obtain ⟨rfl, rfl⟩ := h
  obtain ⟨rfl, rfl⟩ := h'
  exact ⟨responseStream_append v σ qs qs', afterRequests_append v σ qs qs'⟩

/-- The rules' own account of an admitted command's request is what the command does. -/
theorem answeredWith_of_exec {v : Variant} {σ : Lanes × Phase} {i : Instr} {t : State} (hwf : i.wellFormed v = true)
    (hexec : exec i (quietAt v σ []) = .next t) :
    AnsweredWith v σ [commandRequest i] t.respPort (t.lanes, t.phase) := by
  obtain ⟨hop, -, -⟩ := fields_of_word i (encodable_of_wellFormed hwf)
  cases (exec_of_legal (s := quietAt v σ []) hop (legal_word hwf) hwf).symm.trans hexec
  exact ⟨List.append_nil _, rfl⟩

/-! ### The requests of HASH -/

/-- The first `n` full blocks of a message, absorbed one after another (R138). -/
def absorbRequests (v : Variant) (M : List Byte) (n : Nat) : List Request :=
  (List.range n).map fun i => commandRequest (.absorb (messageBlock v M i))

theorem absorbRequests_succ (v : Variant) (M : List Byte) (n : Nat) :
    absorbRequests v M (n + 1) = absorbRequests v M n ++ [commandRequest (.absorb (messageBlock v M n))] := by
  simp [absorbRequests, List.range_succ]

/-- Each block leads from R139's `S_i` to `S_(i+1)`; `S_0` is what INIT leaves. -/
theorem answeredWith_absorbRequests {v : Variant} {M : List Byte} {n : Nat} (hn : n ≤ fullBlocks v M) :
    AnsweredWith v (zeroLanes, .absorb) (absorbRequests v M n) (List.replicate n 0x00)
      (absorbedBlocks v M n, .absorb) := by
  induction n with
  | zero => exact ⟨rfl, rfl⟩
  | succ n ih =>
    have hlen := messageBlock_length (Nat.lt_of_succ_le hn)
    have hblock := answeredWith_of_exec (σ := (absorbedBlocks v M n, .absorb)) ((wellFormed_absorb v _).mpr hlen)
      (exec_absorb_of_absorb hlen rfl)
    rw [absorbRequests_succ, List.replicate_succ']
    exact (ih (Nat.le_of_succ_le hn)).append hblock

theorem map_commandRequest_hashCommands (v : Variant) (M : List Byte) :
    (hashCommands v M).map commandRequest =
      [commandRequest .init] ++ (absorbRequests v M (fullBlocks v M) ++ [commandRequest (.final (messageTail v M))] ++
        [commandRequest .squeeze]) := by
  simp [hashCommands, absorbRequests]

/-- From any lanes and PHASE, HASH is answered OK throughout, the last time with the digest, and leaves R139's `S_q'` in
DONE. -/
theorem answeredWith_hashCommands (v : Variant) (M : List Byte) (σ : Lanes × Phase) :
    AnsweredWith v σ ((hashCommands v M).map commandRequest)
      (List.replicate (fullBlocks v M + 2) 0x00 ++ 0x00 :: digest v M) (closedState v M, .done) := by
  have hinit : AnsweredWith v σ [commandRequest .init] [0x00] (zeroLanes, .absorb) :=
    answeredWith_of_exec rfl (exec_init _)
  have hblocks := answeredWith_absorbRequests (v := v) (M := M) le_rfl
  have htail : (Instr.final (messageTail v M)).wellFormed v = true :=
    wellFormed_of_mem_hashCommands (M := M) (by simp [hashCommands])
  have hfinal : AnsweredWith v (absorbedBlocks v M (fullBlocks v M), .absorb)
      [commandRequest (.final (messageTail v M))] [0x00] (closedState v M, .done) :=
    answeredWith_of_exec htail (exec_final_of_absorb ((wellFormed_final v _).mp htail) rfl)
  have hsqueeze : AnsweredWith v (closedState v M, .done) [commandRequest .squeeze] (0x00 :: digest v M)
      (closedState v M, .done) := answeredWith_of_exec rfl (exec_squeeze_of_done rfl)
  rw [map_commandRequest_hashCommands, List.replicate_succ, List.replicate_succ']
  exact hinit.append ((hblocks.append hfinal).append hsqueeze)

/-- Settles O52: the requests of HASH are framed, so the quiet core answers them all, and
`answeredWith_hashCommands` says how. -/
theorem hashProgramAnswersTheDigest : Obligations.HashProgramAnswersTheDigest := by
  unfold Obligations.HashProgramAnswersTheDigest
  intro M s hs
  have hframed : ∀ q ∈ (hashCommands s.variant M).map commandRequest, q.framed = true :=
    List.forall_mem_map.mpr fun _ hi => framed_commandRequest (wellFormed_of_mem_hashCommands hi)
  have hreaches := reaches_quietAt (v := s.variant) (σ := (s.lanes, s.phase)) (received := s.received) hframed
  obtain ⟨hresponses, hstate⟩ := answeredWith_hashCommands s.variant M (s.lanes, s.phase)
  rw [← eq_quietAt_of_quiet hs, ← requestsOf_eq_flatMap, hstate, hresponses, ← List.append_assoc] at hreaches
  obtain ⟨k, hrun⟩ := exists_run_of_reaches hreaches
  exact ⟨k, _, hrun, quiet_quietAt _ _ _, rfl, rfl, rfl⟩

end Sys2Proof.Machine
end

section
/-! Requests answered with an error (R161). -/

namespace Sys2Proof.Machine

open Safety

/-- The three error statuses of R160. -/
theorem Status.code_of_ne_ok {c : Status} (h : c ≠ .ok) : c.code ∈ [0x01, 0x02, 0x03] := by
  cases c with
  | ok => exact absurd rfl h
  | _ => decide

/-- A response opens with the code of the verdict: the status byte comes first (R61). -/
theorem responseTo_head? (v : Variant) (cw : Word32) (p : Phase) (A : Lanes) :
    (responseTo v cw p A).head? = some (verdict v cw p).code := by
  by_cases hok : verdict v cw p = .ok
  · rw [responseTo, if_pos hok, hok]
    split_ifs <;> rfl
  · rw [responseTo, if_neg hok]
    rfl

/-- A request whose verdict is an error is only taken and answered with its status byte (R161). -/
theorem step_of_verdict_ne_ok {s : State} {q : Request} {rest : List Byte} (h : HoldsRequest s q rest)
    (hverdict : verdict s.variant q.word s.phase ≠ .ok) :
    step s = .next
      { s with parser := [], cmdPort := rest, respPort := [(verdict s.variant q.word s.phase).code] } := by
  rw [step_holdsRequest h, lanesAfter, phaseAfter, responseTo, if_neg hverdict, if_neg hverdict, if_neg hverdict]

/-- Settles O27: a response that does not open with OK's code, 0x00, answers a verdict other than OK. -/
theorem rejectedRequestWritesNoState : Obligations.RejectedRequestWritesNoState := by
  unfold Obligations.RejectedRequestWritesNoState
  intro s t q rest h hstep hhead
  have hverdict : verdict s.variant q.word s.phase ≠ .ok := by
    intro hok
    rw [respPort_of_step h hstep, responseTo_head?, hok] at hhead
    exact hhead rfl
  rw [step_of_verdict_ne_ok h hverdict] at hstep
  cases hstep
  exact ⟨_, Status.code_of_ne_ok hverdict, rfl⟩

end Sys2Proof.Machine
end

section
/-! Reset abandons the transaction in progress (R180). -/

namespace Sys2Proof.Machine

open Safety

/-- The host cannot tell which lanes a phase hides (R32, R136). -/
theorem hostEquivalent_setLanes {s : State} (B : Lanes) (hhidden : lanesHidden s.phase = true) :
    HostEquivalent s { s with lanes := B } :=
  ⟨rfl, rfl, rfl, rfl, rfl, rfl, rfl, fun hread => absurd hread (by simp [hhidden])⟩

/-- Reset in any state gives a fresh instance's reset state, but for the host's flow control and what it has received
(R32, R180). -/
theorem State.hostReset_eq_resetWith (s : State) (A : Lanes) :
    s.hostReset A = { State.resetWith s.variant A with respReady := s.respReady, received := s.received } := rfl

/-- Settles O49: reset leaves the fresh reset state with lanes `A`, and IDLE hides the lanes, so any `B` may stand for
them. Bytes of the request that the core had not yet taken are dropped too (log entry 8). -/
theorem resetAbandonsTheTransaction : Obligations.ResetAbandonsTheTransaction := by
  unfold Obligations.ResetAbandonsTheTransaction
  intro s A B
  rw [State.hostReset_eq_resetWith]
  exact hostEquivalent_setLanes B rfl

end Sys2Proof.Machine
end

section
/-! Encoding and decoding are inverse (R61 to R63, R65), and the opcode table's rows are disjoint (R67). -/

namespace Sys2Proof.Machine

open Safety

/-! ### Decoding a request -/

/-- A complete request decodes to the command of its word, if any, and leaves the bytes after its payload. -/
theorem decode_request_eq_command_iff {cw : Word32} {D rest rest' : List Byte} {i : Instr}
    (hlen : D.length = lenField cw) :
    decode (wordBytes cw ++ D ++ rest) = .command i rest' ↔ decodeWord cw D = .ok i ∧ rest = rest' := by
  rw [decode_request cw D rest hlen]
  cases decodeWord cw D <;> simp

/-- A command is its OP and its payload (R65, R69). -/
theorem eq_of_op_eq_of_payload_eq {i j : Instr} (hop : i.op = j.op) (hpayload : i.payload = j.payload) : i = j := by
  cases i <;> cases j <;> simp_all [Instr.op, Instr.payload]

/-- An admitted command's word decodes to it: the word is legal, and has the command's OP (R65, R67). -/
theorem decodeWord_word {v : Variant} {i : Instr} (hwf : i.wellFormed v = true) :
    decodeWord i.word i.payload = .ok i := by
  obtain ⟨hop, hlen, -⟩ := fields_of_word i (encodable_of_wellFormed hwf)
  obtain ⟨j, hdec⟩ := exists_decodeWord_of_legal i.payload (legal_word hwf)
  obtain ⟨-, hop', hpayload⟩ := fields_of_decodeWord hlen.symm hdec
  rw [hdec, eq_of_op_eq_of_payload_eq (hop.symm.trans hop') hpayload]

/-- Settles O20: the encoding is the request of the command's word and payload, and the word decodes to the command. -/
theorem decodeOfEncode : Obligations.DecodeOfEncode := by
  unfold Obligations.DecodeOfEncode
  intro v i rest hwf
  obtain ⟨-, hlen, -⟩ := fields_of_word i (encodable_of_wellFormed hwf)
  exact (decode_request_eq_command_iff hlen.symm).mpr ⟨decodeWord_word hwf, rfl⟩

/-- A word that decodes to a command, with the payload it has, is the command's own (R62, R65). -/
theorem eq_word_of_decodeWord {cw : Word32} {D : List Byte} {i : Instr} (hlen : D.length = lenField cw)
    (hdec : decodeWord cw D = .ok i) : cw = i.word := by
  obtain ⟨hrsvd, hop, rfl⟩ := fields_of_decodeWord hlen hdec
  have hencodable : i.encodable = true := (encodable_iff i).mpr (hlen ▸ lenField_le cw)
  obtain ⟨hop', hlen', hrsvd'⟩ := fields_of_word i hencodable
  exact commandWord_ext (hop.trans hop'.symm) (hlen.symm.trans hlen'.symm) (hrsvd.trans hrsvd'.symm)

/-- Settles O21: bytes that decode to a command hold a request, whose word and payload are the command's. -/
theorem encodeOfDecode : Obligations.EncodeOfDecode := by
  unfold Obligations.EncodeOfDecode
  intro bytes i rest hdec
  obtain hincomplete | ⟨cw, D, rest', hlen, rfl⟩ := request_cases bytes
  · cases hincomplete.symm.trans hdec
  · obtain ⟨hword, rfl⟩ := (decode_request_eq_command_iff hlen).mp hdec
    obtain ⟨-, -, hpayload⟩ := fields_of_decodeWord hlen hword
    rw [encode, ← eq_word_of_decodeWord hlen hword, ← hpayload]

/-- Settles O22: a legal word decodes, and a word that decodes is legal exactly when its command is admitted. -/
theorem legalWordsAreTheAdmittedCommands : Obligations.LegalWordsAreTheAdmittedCommands := by
  unfold Obligations.LegalWordsAreTheAdmittedCommands
  intro v q rest hframed
  have hlen := payload_length_of_framed hframed
  constructor
  · intro hlegal
    obtain ⟨i, hword⟩ := exists_decodeWord_of_legal q.payload hlegal
    exact ⟨i, (decode_request_eq_command_iff hlen).mpr ⟨hword, rfl⟩,
      (legal_eq_wellFormed v hlen hword).symm.trans hlegal⟩
  · rintro ⟨i, hdec, hwf⟩
    obtain ⟨hword, -⟩ := (decode_request_eq_command_iff hlen).mp hdec
    exact (legal_eq_wellFormed v hlen hword).trans hwf

/-- Settles O53: the assembler asks only whether the command is admitted; what it emits decodes by `decodeOfEncode`. -/
theorem assemblerRejectsWrongLengths : Obligations.AssemblerRejectsWrongLengths := by
  unfold Obligations.AssemblerRejectsWrongLengths
  intro v i rest
  refine ⟨fun hwf => ?rejected, fun hwf => ⟨encode i, ?emitted, decodeOfEncode v i rest hwf⟩⟩
  case rejected => rw [assembleLine, if_neg (by simp [hwf])]
  case emitted => rw [assembleLine, if_pos hwf]

/-! ### The rows of the opcode table (R67) -/

/-- Every row's mask keeps OP whole. -/
theorem opField_mask : ∀ row ∈ opcodeTable, opField row.mask = BitVec.allOnes 8 := by decide

theorem opField_pattern_pairwise : opcodeTable.Pairwise fun r r' => opField r.pattern ≠ opField r'.pattern := by decide

/-- A word has the OP of its row. -/
theorem opField_eq_of_row {row : OpcodeRow} (hrow : row ∈ opcodeTable) {cw : Word32}
    (hmatch : cw &&& row.mask = row.pattern) : opField cw = opField row.pattern := by
  have hmask := opField_mask row hrow
  unfold opField at hmask ⊢
  rw [← hmatch, BitVec.extractLsb'_and, hmask, BitVec.and_allOnes]

/-- Settles O19: a word of two rows would have both rows' OPs, which differ. -/
theorem opcodeRowsAreDisjoint : Obligations.OpcodeRowsAreDisjoint := by
  unfold Obligations.OpcodeRowsAreDisjoint
  refine opField_pattern_pairwise.imp_of_mem fun hr hr' hne cw ⟨hmatch, hmatch'⟩ => hne ?_
  rw [← opField_eq_of_row hr hmatch, opField_eq_of_row hr' hmatch']

/-- Settles O18: the decoder evaluated on each of the twelve requests. -/
theorem commandWordsDecode : Obligations.CommandWordsDecode := by
  unfold Obligations.CommandWordsDecode
  exact ⟨rfl, rfl, rfl, rfl, rfl, rfl, rfl, rfl, rfl, rfl, rfl, rfl⟩

end Sys2Proof.Machine
end

section
/-! What every step keeps: a step always answers a next state, an unfinished request waits, and the ports' invariant
holds (R31, R60, R164, R186). -/

namespace Sys2Proof.Machine

open Safety

/-! ### A step answers (R164, R165) -/

/-- Every command answers: it refuses or has its effect. -/
theorem exists_next_of_exec (i : Instr) (s : State) : ∃ t : State, exec i s = .next t := by
  obtain ⟨_, -, h⟩ | ⟨-, h⟩ | ⟨_, -, -, -, h⟩ | ⟨_, -, -, -, h⟩ | ⟨-, -, h⟩ | ⟨-, -, h⟩ | ⟨-, h⟩ := exec_cases i s <;>
    exact ⟨_, h⟩

/-- Settles O31: each case of a step is a next state, a command's by `exists_next_of_exec`. -/
theorem everyStepAnswersANextState : Obligations.EveryStepAnswersANextState := by
  unfold Obligations.EveryStepAnswersANextState
  intro s
  obtain ⟨-, h⟩ | ⟨-, -, h⟩ | ⟨-, _, _, -, h⟩ | ⟨-, i, rest, -, h⟩ := step_cases s
  case inr.inr.inr => exact h ▸ exists_next_of_exec i (s.take rest)
  all_goals exact ⟨_, h⟩

/-- Every event answers: the host's actions by definition. -/
theorem exists_next_of_act (e : Event) (s : State) : ∃ t : State, act e s = .next t := by
  cases e with
  | core => exact everyStepAnswersANextState s
  | _ => exact ⟨_, rfl⟩

/-! ### What a step runs -/

/-- Settles O23: `step_command`, whose `take` is the state with the request's bytes taken. -/
theorem stepRunsTheDecodedCommand : Obligations.StepRunsTheDecodedCommand := by
  unfold Obligations.StepRunsTheDecodedCommand
  exact fun s i rest => step_command

/-- A table word's bytes are one whole request: a word, and as many bytes as its LEN says (R63, R64). -/
theorem tableRequest_eq (nbits w : Nat) :
    ∃ (cw : Word32) (D : List Byte), D.length = lenField cw ∧ tableRequest nbits w = wordBytes cw ++ D := by
  refine ⟨commandWord (tableByte nbits w 0) (tableByte nbits w 1) (tableByte nbits w 2) (tableByte nbits w 3),
    ((List.range (tableByte nbits w 1).toNat).map (4 + ·)).map (tableByte nbits w), ?_, ?_⟩
  · simp
  · rw [tableRequest, List.range_add, List.map_append, wordBytes_commandWord]
    rfl

/-- What a table word decodes to, its bytes decode to in front of any others. -/
theorem decode_tableRequest {nbits w : Nat} {i : Instr} (h : decodeTableWord nbits w = some i) (rest : List Byte) :
    decode (tableRequest nbits w ++ rest) = .command i rest := by
  obtain ⟨cw, D, hlen, hbytes⟩ := tableRequest_eq nbits w
  have hword : decodeWord cw D = .ok i := by
    unfold decodeTableWord at h
    split at h
    case h_1 j _ hdec =>
      rw [hbytes, ← List.append_nil (_ ++ _)] at hdec
      cases h
      exact ((decode_request_eq_command_iff hlen).mp hdec).1
    all_goals cases h
  rw [hbytes]
  exact (decode_request_eq_command_iff hlen).mpr ⟨hword, rfl⟩

/-- Settles O24: the offered request is complete, so the step runs its command and leaves the command port's bytes. -/
theorem stepRunsTheTableWord : Obligations.StepRunsTheTableWord := by
  unfold Obligations.StepRunsTheTableWord
  exact fun s nbits w i h => step_command rfl (decode_tableRequest h s.cmdPort)

/-- Settles O30: with a byte pending a step is `deliver`, which asks whether the host takes it. -/
theorem responseComesBeforeTheNextRequest : Obligations.ResponseComesBeforeTheNextRequest := by
  unfold Obligations.ResponseComesBeforeTheNextRequest
  intro s b bs hport
  rw [step_pending (by simp [hport])]
  exact ⟨fun hready => by rw [State.deliver_ready hport hready], fun hheld => by rw [State.deliver_held hheld]⟩

/-! ### An unfinished request waits (R186) -/

/-- Fewer than four word bytes, or fewer payload bytes than LEN, are no complete request. -/
theorem decode_eq_incomplete {bytes : List Byte}
    (h : bytes.length < 4 ∨ ∃ (c0 c1 c2 c3 : Byte) (D : List Byte),
      bytes = c0 :: c1 :: c2 :: c3 :: D ∧ D.length < c1.toNat) : decode bytes = .incomplete := by
  obtain hshort | ⟨c0, c1, c2, c3, D, rfl, hshort⟩ := h
  · obtain hincomplete | ⟨cw, D, rest, -, rfl⟩ := request_cases bytes
    · exact hincomplete
    · simp only [List.length_append, wordBytes_length] at hshort
      omega
  · simp only [decode, lenField_commandWord, if_pos hshort]

/-- A core that waits: it has taken every byte offered, no request is complete and no response is pending. -/
def Waiting (s : State) : Prop := s.respPort = [] ∧ s.cmdPort = [] ∧ decode s.parser = .incomplete

theorem waiting_gather {s : State} (hport : s.respPort = []) (hdec : decode (s.parser ++ s.cmdPort) = .incomplete) :
    Waiting s.gather := ⟨hport, rfl, hdec⟩

/-- A step leaves a waiting core as it is. -/
theorem step_waiting {s : State} (h : Waiting s) : step s = .next s := by
  obtain ⟨A, p, v, parser, cmdPort, respPort, respReady, received⟩ := s
  obtain ⟨rfl, rfl, hdec⟩ := h
  rw [step_incomplete rfl (by simpa using hdec), State.gather, State.requestBytes_eq, List.append_nil]

/-- So do any steps and whatever the host does with the response port, but for its own flow control. -/
theorem runEvents_waiting {es : List Event} (hes : ∀ e ∈ es, e = .core ∨ ∃ on : Bool, e = .ready on) {s : State}
    (h : Waiting s) : ∃ on : Bool, runEvents es s = .next { s with respReady := on } := by
  induction es generalizing s with
  | nil => exact ⟨s.respReady, rfl⟩
  | cons e es ih =>
    obtain ⟨he, hrest⟩ := List.forall_mem_cons.mp hes
    obtain rfl | ⟨on, rfl⟩ := he
    · simpa only [runEvents, act, step_waiting h] using ih hrest h
    · exact ih hrest (s := s.hostReady on) h

/-- Settles O29: the first step takes the bytes, and leaves a waiting core. -/
theorem incompleteRequestWaits : Obligations.IncompleteRequestWaits := by
  unfold Obligations.IncompleteRequestWaits
  intro s hport hbytes
  have hdec := decode_eq_incomplete hbytes
  exact ⟨step_incomplete hport hdec, fun es hes => runEvents_waiting hes (waiting_gather hport hdec)⟩

/-! ### The ports' invariant (R31, R60, R61) -/

theorem four_le_outBytes (v : Variant) : 4 ≤ v.outBytes := by cases v <;> decide

/-- A response is a status byte and at most `OUT_BYTES` bytes: SQUEEZE's is the longest (R61, R70). -/
theorem responseTo_length_le (v : Variant) (cw : Word32) (p : Phase) (A : Lanes) :
    (responseTo v cw p A).length ≤ 1 + v.outBytes := by
  have := four_le_outBytes v
  rw [responseTo_length]
  split_ifs <;> omega

/-- Everything a step can do, in the rules' own terms: deliver, wait, or answer the request at the ports (R60, R61). -/
theorem step_cases_request (s : State) :
    (s.respPort ≠ [] ∧ step s = .next s.deliver) ∨
      (s.respPort = [] ∧ decode (s.parser ++ s.cmdPort) = .incomplete ∧ step s = .next s.gather) ∨
      ∃ (q : Request) (rest : List Byte), HoldsRequest s q rest := by
  by_cases hport : s.respPort = []
  · obtain hdec | ⟨cw, D, rest, hlen, hbytes⟩ := request_cases (s.parser ++ s.cmdPort)
    · exact .inr (.inl ⟨hport, hdec, step_incomplete hport hdec⟩)
    · exact .inr (.inr ⟨⟨cw, D⟩, rest, hport, hbytes, by simpa [Request.framed] using hlen⟩)
  · exact .inl ⟨hport, step_pending hport⟩

/-- Delivering leaves the parser alone and lengthens no response. -/
theorem portsInv_deliver {s : State} (h : PortsInv s) : PortsInv s.deliver := by
  obtain ⟨hdec, hpending, hlen⟩ := h
  obtain ⟨-, -, hvariant, hparser, -, -, -, hle⟩ := s.deliver_frame
  rw [PortsInv, hvariant, hparser]
  refine ⟨hdec, fun hport => hpending fun hempty => hport ?_, hle.trans hlen⟩
  rw [hempty] at hle
  exact List.eq_nil_of_length_eq_zero (Nat.le_zero.mp hle)

theorem portsInv_step {s t : State} (h : PortsInv s) (hstep : step s = .next t) : PortsInv t := by
  obtain ⟨-, hdeliver⟩ | ⟨hport, hdec, hgather⟩ | ⟨q, rest, hholds⟩ := step_cases_request s
  · cases hdeliver.symm.trans hstep
    exact portsInv_deliver h
  · cases hgather.symm.trans hstep
    exact ⟨hdec, fun hpending => absurd hport hpending, by simp [hport]⟩
  · cases (step_holdsRequest hholds).symm.trans hstep
    exact ⟨rfl, fun _ => rfl, responseTo_length_le _ _ _ _⟩

theorem portsInv_act {e : Event} {s t : State} (h : PortsInv s) (hact : act e s = .next t) : PortsInv t := by
  cases e with
  | core => exact portsInv_step h hact
  | send bytes => cases hact; exact h
  | ready on => cases hact; exact h
  | reset A => cases hact; exact ⟨rfl, fun _ => rfl, Nat.zero_le _⟩

/-- Settles O47: a step by the three things it can do; the host's actions but reset leave the parser and the response
port alone, and reset empties both. -/
theorem portsInvIsKept : Obligations.PortsInvIsKept := by
  unfold Obligations.PortsInvIsKept
  exact ⟨fun s t => portsInv_step, fun e s t => portsInv_act⟩

/-- Settles O46: reset leaves the parser and both ports empty. -/
theorem portsInvAtReset : Obligations.PortsInvAtReset := by
  unfold Obligations.PortsInvAtReset
  exact fun v A => ⟨decode_nil, fun _ => State.parser_resetWith v A, Nat.zero_le _⟩

end Sys2Proof.Machine
end

section
/-! What commands and steps change: lanes, PHASE, VARIANT and the response, and which commands can be repeated (R23, R25,
R50, R130, R135). -/

namespace Sys2Proof.Machine

open Safety

/-! ### The effects of commands -/

/-- The states a command can leave: refused, or with its effect in a phase that admits it (R132 to R137, R161). -/
inductive Effect (s : State) : Instr → State → Prop
  | refused (i : Instr) (st : Status) : st ≠ .ok → Effect s i (s.raise st)
  | init : Effect s .init (((s.setLanes zeroLanes).setPhase .absorb).respond .ok [])
  | absorb (D : List Byte) : s.phase = .absorb → Effect s (.absorb D) ((s.absorbBlock D).respond .ok [])
  | final (D : List Byte) : s.phase = .absorb →
      Effect s (.final D) (((s.absorbBlock (pad s.variant D)).setPhase .done).respond .ok [])
  | squeeze : s.phase = .done → Effect s .squeeze (s.respond .ok (extract s.variant s.lanes))
  | abort : s.phase = .absorb → Effect s .abort ((s.setPhase .aborted).respond .ok [])
  | query : Effect s .query (s.respond .ok (wordBytes s.queryWord))

/-- `exec_cases`, by the state left. -/
theorem effect_of_exec {i : Instr} {s t : State} (hexec : exec i s = .next t) : Effect s i t := by
  obtain ⟨st, hst, h⟩ | ⟨rfl, h⟩ | ⟨D, rfl, hphase, -, h⟩ | ⟨D, rfl, hphase, -, h⟩ | ⟨rfl, hphase, h⟩ |
    ⟨rfl, hphase, h⟩ | ⟨rfl, h⟩ := exec_cases i s <;> cases h.symm.trans hexec
  · exact .refused i st hst
  · exact .init
  · exact .absorb D hphase
  · exact .final D hphase
  · exact .squeeze hphase
  · exact .abort hphase
  · exact .query

theorem variant_of_exec {i : Instr} {s t : State} (hexec : exec i s = .next t) : t.variant = s.variant := by
  cases effect_of_exec hexec <;> rfl

/-- Only INIT, and ABSORB and FINAL in ABSORB, write lanes (R23). -/
theorem lanes_of_exec {i : Instr} {s t : State} (hexec : exec i s = .next t) :
    t.lanes = s.lanes ∨ i = .init ∨ (s.phase = .absorb ∧ ∃ D : List Byte, i = .absorb D ∨ i = .final D) := by
  cases effect_of_exec hexec with
  | init => exact .inr (.inl rfl)
  | absorb D hphase => exact .inr (.inr ⟨hphase, D, .inl rfl⟩)
  | final D hphase => exact .inr (.inr ⟨hphase, D, .inr rfl⟩)
  | _ => exact .inl rfl

/-- Only INIT, and FINAL and ABORT in ABSORB, change PHASE (R130). -/
theorem phase_of_exec {i : Instr} {s t : State} (hexec : exec i s = .next t) :
    t.phase = s.phase ∨ (i = .init ∧ t.phase = .absorb) ∨
      (s.phase = .absorb ∧ ∃ D : List Byte, i = .final D ∧ t.phase = .done) ∨
      (s.phase = .absorb ∧ i = .abort ∧ t.phase = .aborted) := by
  cases effect_of_exec hexec with
  | init => exact .inr (.inl ⟨rfl, rfl⟩)
  | final D hphase => exact .inr (.inr (.inl ⟨hphase, D, rfl, rfl⟩))
  | abort hphase => exact .inr (.inr (.inr ⟨hphase, rfl, rfl⟩))
  | _ => exact .inl rfl

/-- Only SQUEEZE in DONE answers with more bytes than QUERY (R70, R135). -/
theorem respPort_of_exec {i : Instr} {s t : State} (hexec : exec i s = .next t) :
    t.respPort.length ≤ s.respPort.length + 5 ∨
      (i = .squeeze ∧ s.phase = .done ∧ t.respPort = s.respPort ++ 0x00 :: extract s.variant s.lanes) := by
  cases effect_of_exec hexec with
  | squeeze hphase => exact .inr ⟨rfl, hphase, rfl⟩
  | _ => exact .inl (by simp)

/-- Settles O39: the meanings of ABSORB and FINAL refuse a command that is not admitted before they look at PHASE. -/
theorem wrongLengthIsIllegalInEveryPhase : Obligations.WrongLengthIsIllegalInEveryPhase := by
  unfold Obligations.WrongLengthIsIllegalInEveryPhase
  refine ⟨fun s block hlen => exec_of_not_wellFormed ?_, fun s msg hlen => exec_of_not_wellFormed ?_⟩
  · rwa [Bool.eq_false_iff, ne_eq, wellFormed_absorb]
  · have := rBytes_pos s.variant
    rw [Bool.eq_false_iff, ne_eq, wellFormed_final]
    omega

/-! ### What a step changes -/

/-- A step runs a command, or it writes no lane, PHASE or VARIANT and starts no response but a status byte. -/
theorem step_runs_or_keeps {s t : State} (hstep : step s = .next t) :
    (∃ (i : Instr) (rest : List Byte), s.respPort = [] ∧ decode (s.parser ++ s.cmdPort) = .command i rest ∧
        exec i (s.take rest) = .next t) ∨
      (t.lanes = s.lanes ∧ t.phase = s.phase ∧ t.variant = s.variant ∧
        (s.respPort = [] → t.respPort.length ≤ 1)) := by
  obtain ⟨hport, h⟩ | ⟨hport, -, h⟩ | ⟨hport, _, rest, -, h⟩ | ⟨hport, i, rest, hdec, h⟩ := step_cases s
  case inr.inr.inr => exact .inl ⟨i, rest, hport, hdec, h.symm.trans hstep⟩
  all_goals cases h.symm.trans hstep
  · obtain ⟨hlanes, hphase, hvariant, -⟩ := s.deliver_frame
    exact .inr ⟨hlanes, hphase, hvariant, fun hempty => absurd hempty hport⟩
  · exact .inr ⟨rfl, rfl, rfl, fun _ => by simp [hport]⟩
  · exact .inr ⟨rfl, rfl, rfl, fun _ => by simp [hport]⟩

/-- Settles O41: a step that writes a lane runs a command, and `lanes_of_exec` says which. -/
theorem onlyInitAbsorbFinalWriteLanes : Obligations.OnlyInitAbsorbFinalWriteLanes := by
  unfold Obligations.OnlyInitAbsorbFinalWriteLanes
  intro s t hstep hne
  obtain ⟨i, rest, -, hdec, hexec⟩ | ⟨hlanes, -⟩ := step_runs_or_keeps hstep
  · exact ⟨i, rest, hdec, (lanes_of_exec hexec).resolve_left hne⟩
  · exact absurd hlanes hne

/-- Settles O42: a step that changes PHASE runs a command, and `phase_of_exec` says which. -/
theorem phaseChangesOnlyAsTheTableSays : Obligations.PhaseChangesOnlyAsTheTableSays := by
  unfold Obligations.PhaseChangesOnlyAsTheTableSays
  intro s t hstep hne
  obtain ⟨i, rest, -, hdec, hexec⟩ | ⟨-, hphase, -⟩ := step_runs_or_keeps hstep
  · exact ⟨i, rest, hdec, (phase_of_exec hexec).resolve_left hne⟩
  · exact absurd hphase hne

/-- Settles O43: a step that starts more than five bytes runs a command, by `respPort_of_exec` a SQUEEZE in DONE. -/
theorem noDigestBeforeTheFinalBlock : Obligations.NoDigestBeforeTheFinalBlock := by
  unfold Obligations.NoDigestBeforeTheFinalBlock
  intro s t hport hstep hlong
  obtain ⟨i, rest, -, hdec, hexec⟩ | ⟨-, -, -, hshort⟩ := step_runs_or_keeps hstep
  · obtain hshort | ⟨rfl, hphase, hresp⟩ := respPort_of_exec hexec
    · simp only [State.respPort_take, hport, List.length_nil] at hshort
      omega
    · simp only [State.respPort_take, hport, List.nil_append] at hresp
      exact ⟨hphase, hresp, rest, hdec⟩
  · have := hshort hport
    omega

theorem variant_of_act {e : Event} {s t : State} (hact : act e s = .next t) : t.variant = s.variant := by
  cases e with
  | core =>
    obtain ⟨_, rest, -, -, hexec⟩ | ⟨-, -, hvariant, -⟩ := step_runs_or_keeps hact
    · exact (variant_of_exec hexec).trans (s.variant_take rest)
    · exact hvariant
  | _ => cases hact; rfl

/-- Settles O45: by induction on the events, each of which keeps VARIANT. -/
theorem variantIsConstant : Obligations.VariantIsConstant := by
  unfold Obligations.VariantIsConstant
  intro es s t hrun
  induction es generalizing s with
  | nil => cases hrun; rfl
  | cons e es ih =>
    obtain ⟨s', hact, hrun⟩ := exists_act_of_runEvents_cons hrun
    exact (ih s' hrun).trans (variant_of_act hact)

/-! ### SQUEEZE reads the output lanes only (R113) -/

theorem mem_take_finRange {n k : Nat} {l : Fin n} : l ∈ (List.finRange n).take k ↔ l.val < k := by
  rw [List.mem_take_iff_getElem]
  constructor
  · rintro ⟨j, hj, rfl⟩
    simpa using hj.trans_le (Nat.min_le_left _ _)
  · intro hl
    exact ⟨l.val, by simpa using hl, List.getElem_finRange _⟩

theorem extract_congr {v : Variant} {A B : Lanes} (h : ∀ l : Fin 25, l.val < v.outLanes → A[l] = B[l]) :
    extract v A = extract v B := by
  rw [extract_eq_flatMap, extract_eq_flatMap]
  exact List.flatMap_congr fun l hl => congrArg bytes64 (h l (mem_take_finRange.mp hl))

/-- Outside DONE the refusal of SQUEEZE reads PHASE only (R135). -/
theorem exec_squeeze_of_ne_done {s : State} (hphase : s.phase ≠ .done) :
    exec .squeeze s = .next (s.raise (if s.phase = .aborted then .errIo else .errSequence)) := by
  cases h : s.phase with
  | done => exact absurd h hphase
  | aborted => exact exec_squeeze_of_aborted h
  | idle => exact exec_squeeze_of_idle_or_absorb (.inl h)
  | absorb => exact exec_squeeze_of_idle_or_absorb (.inr h)

/-- Settles O44: in DONE the response is the extract of lanes that agree, elsewhere a refusal that reads no lane. -/
theorem squeezeReadsOnlyTheOutputLanes : Obligations.SqueezeReadsOnlyTheOutputLanes := by
  unfold Obligations.SqueezeReadsOnlyTheOutputLanes
  intro s t s' t' hphase hvariant hport hlanes hs ht
  by_cases hdone : s.phase = .done
  · cases (exec_squeeze_of_done hdone).symm.trans hs
    cases (exec_squeeze_of_done (hphase ▸ hdone)).symm.trans ht
    rw [State.respPort_respond, State.respPort_respond, hport, ← hvariant, extract_congr hlanes]
  · cases (exec_squeeze_of_ne_done hdone).symm.trans hs
    cases (exec_squeeze_of_ne_done (hphase ▸ hdone)).symm.trans ht
    rw [State.respPort_raise, State.respPort_raise, hport, hphase]

/-! ### Repeating a command (R50) -/

/-- SQUEEZE and QUERY only respond, whether they are refused or not. -/
theorem exists_respPort_of_exec_squeeze_or_query {i : Instr} {s t : State} (hi : i = .squeeze ∨ i = .query)
    (hexec : exec i s = .next t) : ∃ resp : List Byte, t = { s with respPort := resp } := by
  obtain rfl | rfl := hi <;> cases effect_of_exec hexec <;> exact ⟨_, rfl⟩

/-- FINAL and ABORT leave a phase other than ABSORB, if they are admitted at all. -/
theorem phase_ne_absorb_of_exec {i : Instr} {s t : State} (hwf : i.wellFormed s.variant = true)
    (hi : i = .abort ∨ ∃ msg : List Byte, i = .final msg) (hexec : exec i s = .next t) : t.phase ≠ .absorb := by
  obtain rfl | ⟨msg, rfl⟩ := hi
  · by_cases hphase : s.phase = .absorb
    · cases (exec_abort_of_absorb hphase).symm.trans hexec
      simp
    · cases (exec_abort_of_ne_absorb hphase).symm.trans hexec
      exact hphase
  · have hlen := (wellFormed_final _ msg).mp hwf
    by_cases hphase : s.phase = .absorb
    · cases (exec_final_of_absorb hlen hphase).symm.trans hexec
      simp
    · cases (exec_final_of_ne_absorb hlen hphase).symm.trans hexec
      exact hphase

/-- Settles O40: INIT leaves the same lanes and PHASE whatever they were, SQUEEZE and QUERY run in the same state again;
FINAL and ABORT are refused outside ABSORB, which they have left. -/
theorem repeatingACommand : Obligations.RepeatingACommand := by
  unfold Obligations.RepeatingACommand
  refine ⟨fun i s t hi hexec => ?idempotent, fun i s t hi hexec => ?refused⟩
  case idempotent =>
    obtain rfl | hi := hi
    · cases hexec
      exact ⟨rfl, fun hne => absurd rfl hne⟩
    · obtain ⟨resp, rfl⟩ := exists_respPort_of_exec_squeeze_or_query hi hexec
      exact ⟨hexec, fun _ => ⟨rfl, rfl⟩⟩
  case refused =>
    obtain rfl | ⟨msg, rfl, hlen⟩ := hi
    · have hphase := phase_ne_absorb_of_exec rfl (.inl rfl) hexec
      exact exec_abort_of_ne_absorb hphase
    · have hwf := (wellFormed_final s.variant msg).mpr hlen
      have hphase := phase_ne_absorb_of_exec hwf (.inr ⟨msg, rfl⟩) hexec
      rw [← variant_of_exec hexec] at hlen
      exact exec_final_of_ne_absorb hlen hphase

end Sys2Proof.Machine
end

section
/-! Lanes that no command can read never reach the host (R32, R136, R140). -/

namespace Sys2Proof.Machine

open Safety

/-- Equivalent states are one state but for its lanes, which are the same to commands. -/
theorem hostEquivalent_iff {s s' : State} :
    HostEquivalent s s' ↔
      ∃ B : Lanes, s' = { s with lanes := B } ∧ SameToCommands (s.lanes, s.phase) (B, s.phase) := by
  obtain ⟨A, p, v, parser, cmdPort, respPort, respReady, received⟩ := s
  constructor
  · obtain ⟨B, p', v', parser', cmdPort', respPort', respReady', received'⟩ := s'
    rintro ⟨rfl, rfl, rfl, rfl, rfl, rfl, rfl, hlanes⟩
    exact ⟨B, rfl, rfl, hlanes⟩
  · rintro ⟨B, rfl, -, hlanes⟩
    exact ⟨rfl, rfl, rfl, rfl, rfl, rfl, rfl, hlanes⟩

/-- Delivering reads no lane. -/
theorem State.deliver_withLanes (s : State) (B : Lanes) :
    { s with lanes := B }.deliver = { s.deliver with lanes := B } := by
  obtain ⟨A, p, v, parser, cmdPort, _ | ⟨b, rest⟩, respReady, received⟩ := s
  · rfl
  · cases respReady <;> rfl

/-- A step answers equivalent states alike: it delivers or waits without reading a lane, or it answers one request by the
rules' own account, whose response and further lanes are the same to commands. -/
theorem hostEquivalent_step {s s' : State} (h : HostEquivalent s s') :
    ∃ t t' : State, step s = .next t ∧ step s' = .next t' ∧ HostEquivalent t t' := by
  obtain ⟨B, rfl, hsame⟩ := hostEquivalent_iff.mp h
  obtain ⟨hport, hstep⟩ | ⟨hport, hdec, hstep⟩ | ⟨q, rest, hholds⟩ := step_cases_request s
  · obtain ⟨hlanes, hphase, -⟩ := s.deliver_frame
    refine ⟨_, _, hstep, step_pending hport, hostEquivalent_iff.mpr ⟨B, s.deliver_withLanes B, ?_⟩⟩
    rwa [hlanes, hphase]
  · exact ⟨_, _, hstep, step_incomplete hport hdec, hostEquivalent_iff.mpr ⟨B, rfl, hsame⟩⟩
  · have hholds' : HoldsRequest { s with lanes := B } q rest := hholds
    have hresp := responseTo_eq_of_sameToCommands hsame s.variant q.word
    refine ⟨_, _, step_holdsRequest hholds, step_holdsRequest hholds', hostEquivalent_iff.mpr ⟨_, ?_,
      sameToCommands_afterRequest hsame s.variant q⟩⟩
    rw [← hresp]

/-- The same event keeps states equivalent; after a reset they are, whatever lanes it leaves. -/
theorem hostEquivalent_act {e e' : Event} (he : SameEvent e e') {s s' : State} (h : HostEquivalent s s') :
    ∃ t t' : State, act e s = .next t ∧ act e' s' = .next t' ∧ HostEquivalent t t' := by
  cases he with
  | core => exact hostEquivalent_step h
  | send bytes =>
    obtain ⟨B, rfl, hsame⟩ := hostEquivalent_iff.mp h
    exact ⟨_, _, rfl, rfl, hostEquivalent_iff.mpr ⟨B, rfl, hsame⟩⟩
  | ready on =>
    obtain ⟨B, rfl, hsame⟩ := hostEquivalent_iff.mp h
    exact ⟨_, _, rfl, rfl, hostEquivalent_iff.mpr ⟨B, rfl, hsame⟩⟩
  | reset A' B' =>
    obtain ⟨B, rfl, -⟩ := hostEquivalent_iff.mp h
    exact ⟨_, _, rfl, rfl, hostEquivalent_iff.mpr ⟨B', rfl, sameToCommands_idle A' B'⟩⟩

/-- A run whose first event answers goes on from there. -/
theorem runEvents_cons {e : Event} {s t : State} (hact : act e s = .next t) (es : List Event) :
    runEvents (e :: es) s = runEvents es t := by
  simp only [runEvents, hact]

/-- Settles O50: by induction on the two runs' events, pair by pair. -/
theorem hiddenLanesNeverReachTheHost : Obligations.HiddenLanesNeverReachTheHost := by
  unfold Obligations.HiddenLanesNeverReachTheHost
  intro es es' s s' h hes
  induction hes generalizing s s' with
  | nil => exact ⟨s, s', rfl, rfl, h⟩
  | cons he _ ih =>
    obtain ⟨u, u', hact, hact', hu⟩ := hostEquivalent_act he h
    rw [runEvents_cons hact, runEvents_cons hact']
    exact ih u u' hu

end Sys2Proof.Machine
end

section
/-! Several cores in one system: each makes exactly its own events (R171). -/

namespace Sys2Proof.Machine

open Safety

theorem runSystem_cons {e : SystemEvent} {sys sys' : List State} (hact : actSystem e sys = .next sys')
    (es : List SystemEvent) : runSystem (e :: es) sys = runSystem es sys' := by
  simp only [runSystem, hact]

theorem eventsOf_cons_self (e : SystemEvent) (es : List SystemEvent) :
    eventsOf e.target (e :: es) = e.event :: eventsOf e.target es := by
  simp [eventsOf]

theorem eventsOf_cons_of_ne {j : Nat} {e : SystemEvent} (hne : e.target ≠ j) (es : List SystemEvent) :
    eventsOf j (e :: es) = eventsOf j es := by
  simp [eventsOf, hne]

/-- Every core of a system comes out of its own reset (R171). -/
theorem getElem?_systemReset {built : List (Variant × Lanes)} {j : Nat} {v : Variant} {A : Lanes}
    (h : built[j]? = some (v, A)) : (systemReset built)[j]? = some (State.resetWith v A) := by
  rw [systemReset, List.getElem?_map, h, Option.map_some]

/-- An event of a core of the system is that event on its state, and changes no other. -/
theorem exists_actSystem_eq_set (e : SystemEvent) {sys : List State} {s : State} (hs : sys[e.target]? = some s) :
    ∃ t : State, act e.event s = .next t ∧ actSystem e sys = .next (sys.set e.target t) := by
  obtain ⟨t, hact⟩ := exists_next_of_act e.event s
  exact ⟨t, hact, (actSystem_eq e sys).trans (onInstance_next hs hact)⟩

/-- Every core ends where its own events take it, whatever the others do. -/
theorem exists_runSystem (es : List SystemEvent) (sys : List State) :
    ∃ sys' : List State, runSystem es sys = .next sys' ∧ sys'.length = sys.length ∧
      ∀ (j : Nat) (s : State), sys[j]? = some s →
        ∃ t : State, sys'[j]? = some t ∧ runEvents (eventsOf j es) s = .next t := by
  induction es generalizing sys with
  | nil => exact ⟨sys, rfl, rfl, fun j s hs => ⟨s, hs, rfl⟩⟩
  | cons e es ih =>
    cases htarget : sys[e.target]? with
    | none =>
      obtain ⟨sys', hrun, hlen, hown⟩ := ih sys
      refine ⟨sys', ?_, hlen, fun j s hs => ?_⟩
      · rwa [runSystem_cons ((actSystem_eq e sys).trans (onInstance_absent htarget))]
      · have hne : e.target ≠ j := by
          rintro rfl
          cases htarget.symm.trans hs
        rw [eventsOf_cons_of_ne hne]
        exact hown j s hs
    | some u =>
      obtain ⟨t, hact, hsystem⟩ := exists_actSystem_eq_set e htarget
      obtain ⟨sys', hrun, hlen, hown⟩ := ih (sys.set e.target t)
      refine ⟨sys', (runSystem_cons hsystem es).trans hrun, hlen.trans List.length_set, fun j s hs => ?_⟩
      by_cases hj : e.target = j
      · subst hj
        cases htarget.symm.trans hs
        have hlt := (List.getElem?_eq_some_iff.mp htarget).1
        rw [eventsOf_cons_self, runEvents_cons hact]
        exact hown _ t (List.getElem?_set_self hlt)
      · rw [eventsOf_cons_of_ne hj]
        exact hown j s ((List.getElem?_set_ne hj).trans hs)

/-- Settles O55: the resets one by one, the single event by `exists_actSystem_eq_set`, the interleavings by
`exists_runSystem`. -/
theorem instancesAreIndependent : Obligations.InstancesAreIndependent := by
  unfold Obligations.InstancesAreIndependent
  exact ⟨fun _ _ _ _ => getElem?_systemReset, fun e _ k _ => exists_actSystem_eq_set ⟨k, e⟩, exists_runSystem⟩

end Sys2Proof.Machine
end

section
/-! The engine run statement by statement computes what the parallel functions compute, from any leftover hidden state
(R30, R86 to R90, R92, R112, R113, R131). -/

namespace Sys2Proof.Machine

/-! ### Statements that write the lanes region by region -/

/-- A loop whose step `k` writes the lanes of region `k` with `F`, where `F` reads no lane of another region, leaves the
lanes of the regions it visits, each once, with `F` of the lanes before the loop, and every other lane as it was. `Keeps`
is what the steps need and keep of the hidden state. -/
theorem foldl_lane_of_regions {ι : Type} [DecidableEq ι] {step : Engine → ι → Engine} {Keeps : Engine → Prop}
    {region : Fin 25 → ι} {F : Lanes → Fin 25 → Lane} (hkeeps : ∀ e k, Keeps e → Keeps (step e k))
    (hstep : ∀ e k i, Keeps e → (step e k).lanes[i] = if region i = k then F e.lanes i else e.lanes[i])
    (hlocal : ∀ A B i, (∀ j, region j = region i → A[j] = B[j]) → F A i = F B i) {ks : List ι} (hks : ks.Nodup)
    {e : Engine} (he : Keeps e) (i : Fin 25) :
    (ks.foldl step e).lanes[i] = if region i ∈ ks then F e.lanes i else e.lanes[i] := by
  induction ks generalizing e with
  | nil => rfl
  | cons k ks ih =>
    obtain ⟨hk, hks⟩ := List.nodup_cons.mp hks
    rw [List.foldl_cons, ih hks (hkeeps e k he), hstep e k i he]
    by_cases hi : region i ∈ ks
    · have hregion : F (step e k).lanes i = F e.lanes i := hlocal _ _ i fun j hj => by
        rw [hstep e k j he, if_neg]
        rintro rfl
        exact hk (hj ▸ hi)
      rw [if_pos hi, if_pos (List.mem_cons_of_mem k hi), hregion]
    · simp only [hi, if_false, List.mem_cons, or_false]

/-- A loop over every region writes every lane with `F`. -/
theorem foldl_lane_of_all_regions {n : Nat} {step : Engine → Fin n → Engine} {Keeps : Engine → Prop}
    {region : Fin 25 → Fin n} {F : Lanes → Fin 25 → Lane} (hkeeps : ∀ e k, Keeps e → Keeps (step e k))
    (hstep : ∀ e k i, Keeps e → (step e k).lanes[i] = if region i = k then F e.lanes i else e.lanes[i])
    (hlocal : ∀ A B i, (∀ j, region j = region i → A[j] = B[j]) → F A i = F B i) {e : Engine} (he : Keeps e)
    (i : Fin 25) : ((List.finRange n).foldl step e).lanes[i] = F e.lanes i := by
  rw [foldl_lane_of_regions hkeeps hstep hlocal (List.nodup_finRange n) he, if_pos (List.mem_finRange _)]

/-- What each step of a loop keeps, the loop keeps. -/
theorem foldl_keeps {ι : Type} {step : Engine → ι → Engine} {Keeps : Engine → Prop}
    (hkeeps : ∀ e k, Keeps e → Keeps (step e k)) (ks : List ι) {e : Engine} (he : Keeps e) :
    Keeps (ks.foldl step e) :=
  List.foldlRecOn ks step he fun e he k _ => hkeeps e k he

/-- Lane `(x, y)` is the one with column `x` and row `y` (R21). -/
theorem laneIndex_eq_iff (x y : Fin 5) (i : Fin 25) : laneIndex x y = i ↔ laneRow i = y ∧ laneColumn i = x := by
  simp only [laneIndex, laneRow, laneColumn, Fin.ext_iff]
  omega

/-! ### Theta (R86) -/

/-- A loop that writes entry `x` of a vector with `f x`. -/
theorem getElem_foldl_set {α : Type} {n : Nat} (f : Fin n → α) (xs : List (Fin n)) (C : Vector α n) (i : Fin n) :
    (xs.foldl (fun C x => C.set x.val (f x)) C)[i.val] = if i ∈ xs then f i else C[i.val] := by
  induction xs generalizing C with
  | nil => rfl
  | cons x xs ih =>
    rw [List.foldl_cons, ih, Vector.getElem_set]
    by_cases hx : x = i
    · subst hx
      simp
    · simp [Fin.val_inj, hx, Ne.symm hx]

/-- The first loop computes the five parities, whatever `C` held. -/
theorem Engine.foldl_thetaParity (e : Engine) :
    (List.finRange 5).foldl Engine.thetaParity e = { e with c := Vector.ofFn (columnParity e.lanes) } := by
  have hloop := List.foldl_hom (fun C : Vector Lane 5 => ({ e with c := C } : Engine))
    (g₁ := fun C x => C.set x.val (columnParity e.lanes x)) (g₂ := Engine.thetaParity) (l := List.finRange 5)
    (init := e.c) fun _ _ => rfl
  have hparities : (List.finRange 5).foldl (fun C x => C.set x.val (columnParity e.lanes x)) e.c =
      Vector.ofFn (columnParity e.lanes) :=
    Vector.ext fun i hi => by
      rw [getElem_foldl_set _ _ _ ⟨i, hi⟩, if_pos (List.mem_finRange _), Vector.getElem_ofFn]
  rw [← hparities]
  exact hloop

/-- `D` of column `x`. -/
def thetaD (C : Vector Lane 5) (x : Fin 5) : Lane :=
  C[(x.val + 4) % 5]'(Nat.mod_lt _ (by decide)) ^^^ rotl64 (C[(x.val + 1) % 5]'(Nat.mod_lt _ (by decide))) 1

theorem Engine.thetaLane_lane (x : Fin 5) (e : Engine) (y : Fin 5) (i : Fin 25) :
    (Engine.thetaLane x e y).lanes[i] =
      if laneRow i = y then (if laneColumn i = x then e.lanes[i] ^^^ e.d else e.lanes[i]) else e.lanes[i] := by
  rw [← ite_and]
  simp only [← laneIndex_eq_iff, Engine.thetaLane]
  split
  · next h => subst h; simp [laneIndex]
  · next h => exact Vector.getElem_set_ne _ _ fun hi => h (Fin.ext hi)

theorem Engine.thetaColumn_c (e : Engine) (x : Fin 5) : (e.thetaColumn x).c = e.c :=
  foldl_keeps (step := Engine.thetaLane x) (Keeps := fun e' => e'.c = e.c) (fun _ _ h => h) _ rfl

theorem Engine.thetaColumn_lane (e : Engine) (x : Fin 5) (i : Fin 25) :
    (e.thetaColumn x).lanes[i] = if laneColumn i = x then e.lanes[i] ^^^ thetaD e.c x else e.lanes[i] :=
  foldl_lane_of_all_regions (step := Engine.thetaLane x) (Keeps := fun e' => e'.d = thetaD e.c x) (region := laneRow)
    (F := fun A i => if laneColumn i = x then A[i] ^^^ thetaD e.c x else A[i]) (fun _ _ h => h)
    (fun e' y i h => by rw [Engine.thetaLane_lane, h]) (fun A B i h => by rw [h i rfl]) rfl i

theorem Engine.theta_lanes (e : Engine) : e.theta.lanes = Machine.theta e.lanes := by
  refine lanes_ext fun i => ?_
  rw [Engine.theta, Engine.foldl_thetaParity]
  refine (foldl_lane_of_all_regions (step := Engine.thetaColumn)
    (Keeps := fun e' => e'.c = Vector.ofFn (columnParity e.lanes)) (region := laneColumn)
    (F := fun A i => A[i] ^^^ thetaD (Vector.ofFn (columnParity e.lanes)) (laneColumn i))
    (fun e' x h => (e'.thetaColumn_c x).trans h)
    (fun e' x i h => ?_) (fun A B i h => by rw [h i rfl]) rfl i).trans ?_
  · rw [Engine.thetaColumn_lane, h]
    split
    · next hx => rw [hx]
    · rfl
  · rw [theta_lane]
    simp [thetaD, laneColumn]

/-! ### RhoPi (R87) -/

/-- The displaced lane is only a copy: on the lanes and the wanderer the walk is R87's. -/
theorem Engine.rhoPi_lanes (e : Engine) : e.rhoPi.lanes = Machine.rhoPi e.lanes := by
  have hwalk := List.foldl_hom (fun e : Engine => (e.lanes, e.t)) (g₁ := Engine.rhoPiStep) (g₂ := Machine.rhoPiStep)
    (l := List.finRange 24) (init := { e with t := e.lanes[1] }) fun _ _ => rfl
  exact (congrArg Prod.fst hwalk).symm

/-! ### Chi (R89) -/

/-- A row's lane `i` after Chi, from the snapshot `b` of the row. -/
def chiValue (b : Vector Lane 5) (v : Lane) (i : Fin 5) : Lane :=
  v ^^^ (~~~(b[(i.val + 1) % 5]'(Nat.mod_lt _ (by decide))) &&& b[(i.val + 2) % 5]'(Nat.mod_lt _ (by decide)))

/-- `b[0..4] = A[5y .. 5y+4]`. -/
def rowSnapshot (A : Lanes) (y : Fin 5) : Vector Lane 5 := Vector.ofFn fun i : Fin 5 => A[5 * y.val + i.val]'(by omega)

theorem Engine.chiLane_lane (y : Fin 5) (e : Engine) (x : Fin 5) (i : Fin 25) :
    (Engine.chiLane y e x).lanes[i] =
      if laneColumn i = x then (if laneRow i = y then chiValue e.b e.lanes[i] x else e.lanes[i]) else e.lanes[i] := by
  rw [← ite_and]
  simp only [and_comm (a := laneColumn i = x), ← laneIndex_eq_iff, Engine.chiLane]
  split
  · next h => subst h; simp [laneIndex, chiValue, Nat.add_comm]
  · next h => exact Vector.getElem_set_ne _ _ fun hi => h (Fin.ext ((Nat.add_comm _ _).trans hi))

theorem chi_eq_chiValue (A : Lanes) (i : Fin 25) :
    (chi A)[i] = chiValue (rowSnapshot A (laneRow i)) A[i] (laneColumn i) := by
  rw [chi_lane]
  simp [chiValue, rowSnapshot, laneRow, laneColumn]

theorem Engine.chiRow_lane (e : Engine) (y : Fin 5) (i : Fin 25) :
    (e.chiRow y).lanes[i] = if laneRow i = y then (Machine.chi e.lanes)[i] else e.lanes[i] := by
  refine (foldl_lane_of_all_regions (step := Engine.chiLane y)
    (Keeps := fun e' => e'.b = rowSnapshot e.lanes y) (region := laneColumn)
    (F := fun A i => if laneRow i = y then chiValue (rowSnapshot e.lanes y) A[i] (laneColumn i) else A[i])
    (fun _ _ h => h) (fun e' x i h => ?_) (fun A B i h => by rw [h i rfl]) rfl i).trans ?_
  · rw [Engine.chiLane_lane, h]
    split
    · next hx => rw [hx]
    · rfl
  · split
    · next hy => rw [chi_eq_chiValue, hy]
    · rfl

/-- Chi at a lane reads its row only (R89). -/
theorem chi_congr_row {A B : Lanes} {i : Fin 25} (h : ∀ j, laneRow j = laneRow i → A[j] = B[j]) :
    (chi A)[i] = (chi B)[i] := by
  have hrow : rowSnapshot A (laneRow i) = rowSnapshot B (laneRow i) := by
    refine congrArg Vector.ofFn (funext fun x => h ⟨5 * (laneRow i).val + x.val, by omega⟩ (Fin.ext ?_))
    simp only [laneRow]
    omega
  rw [chi_eq_chiValue, chi_eq_chiValue, hrow, h i rfl]

theorem Engine.chi_lanes (e : Engine) : e.chi.lanes = Machine.chi e.lanes :=
  lanes_ext fun i => foldl_lane_of_all_regions (step := Engine.chiRow) (Keeps := fun _ => True)
    (region := laneRow) (F := fun A i => (Machine.chi A)[i]) (fun _ _ h => h) (fun e y i _ => e.chiRow_lane y i)
    (fun _ _ _ h => chi_congr_row h) trivial i

/-- Iota has no temporaries (R90). -/
theorem Engine.iota_lanes (e : Engine) (r : Fin 24) : (e.iota r).lanes = Machine.iota e.lanes r := rfl

/-- Settles O8: the four steps one by one. -/
theorem sequentialStepsAgree : Obligations.SequentialStepsAgree := by
  unfold Obligations.SequentialStepsAgree
  exact fun e r => ⟨e.theta_lanes, e.rhoPi_lanes, e.chi_lanes, e.iota_lanes r⟩

/-! ### The round and KeccakF (R80, R81) -/

theorem Engine.keccakRound_lanes (e : Engine) (r : Fin 24) :
    (e.keccakRound r).lanes = Machine.keccakRound e.lanes r := by
  rw [Engine.keccakRound, Engine.iota_lanes, Engine.chi_lanes, Engine.rhoPi_lanes, Engine.theta_lanes, Machine.keccakRound]

theorem Engine.keccakF_lanes (e : Engine) : e.keccakF.lanes = Machine.keccakF e.lanes := by
  rw [Machine.keccakF]
  exact (List.foldl_hom Engine.lanes fun e r => (e.keccakRound_lanes r).symm).symm

/-! ### AbsorbXor (R112) -/

/-- Absorbing a lane XORs its group of the block buffer into it (R112). -/
theorem Engine.absorbLane_lane (e : Engine) (l i : Fin 25) :
    (e.absorbLane l).lanes[i] = if i = l then e.lanes[i] ^^^ blockLane e.block i.val else e.lanes[i] := by
  rw [Engine.absorbLane]
  split
  · next h => subst h; simp
  · next h => exact Vector.getElem_set_ne l.isLt i.isLt fun hi => h (Fin.ext hi.symm)

theorem Engine.absorbXor_lanes (v : Variant) (e : Engine) :
    (e.absorbXor v).lanes = Machine.absorbXor v e.lanes e.block := by
  refine lanes_ext fun i => ?_
  have hnodup : ((List.finRange 25).take v.rLanes).Nodup := (List.nodup_finRange 25).sublist (List.take_sublist _ _)
  have hloop := foldl_lane_of_regions (step := Engine.absorbLane) (Keeps := fun e' => e'.block = e.block) (region := id)
    (F := fun A i => A[i] ^^^ blockLane e.block i.val) (fun _ _ h => h)
    (fun e' l i h => by rw [Engine.absorbLane_lane, h]; rfl) (fun A B i h => by rw [h i rfl]) hnodup rfl i
  rw [absorbXor_lane, Engine.absorbXor, hloop]
  simp only [id, mem_take_finRange]

/-! ### The padded block (R131) -/

/-- Copying a message to the front of a buffer. -/
theorem foldl_set_getD (D P : List Byte) {n : Nat} (hn : n ≤ D.length) (hP : D.length ≤ P.length) :
    (List.range n).foldl (fun P b => P.set b (D.getD b 0)) P = D.take n ++ P.drop n := by
  induction n with
  | zero => rfl
  | succ n ih =>
    have hbuffer : P.drop n = P[n] :: P.drop (n + 1) := List.drop_eq_getElem_cons (by omega)
    have hlen : (D.take n).length = n := by simp; omega
    rw [List.range_succ, List.foldl_append, ih (by omega), hbuffer, List.foldl_cons, List.foldl_nil,
      List.set_append_right _ _ hlen.le, hlen, Nat.sub_self, List.set_cons_zero, List.take_succ_eq_append_getElem hn,
      List.append_assoc, List.getD_eq_getElem _ _ hn]
    rfl

theorem Engine.pad_eq {v : Variant} {D : List Byte} (hD : D.length ≤ v.rBytes - 1) (e : Engine) :
    e.pad v D = { e with block := Machine.pad v D } := by
  have hbuffer := List.foldl_hom (fun P : List Byte => ({ e with block := P } : Engine))
    (g₁ := fun P b => P.set b (D.getD b 0)) (g₂ := fun e b => { e with block := e.block.set b (D.getD b 0) })
    (l := List.range D.length) (init := List.replicate v.rBytes 0x00#8) fun _ _ => rfl
  have hcopied := foldl_set_getD D (List.replicate v.rBytes 0x00#8) le_rfl
    (by rw [List.length_replicate]; exact hD.trans (Nat.sub_le _ _))
  rw [List.take_length, List.drop_replicate] at hcopied
  rw [Engine.pad, hbuffer, hcopied]
  rfl

/-! ### Extract (R113) -/

theorem Engine.extract_eq (v : Variant) (e : Engine) :
    e.extract v = { e with digest := Machine.extract v e.lanes } := by
  have hbuffer := List.foldl_hom (fun O : List Byte => ({ e with digest := O } : Engine))
    (g₁ := fun O l => O ++ bytes64 e.lanes[l]) (g₂ := fun e l => { e with digest := e.digest ++ bytes64 e.lanes[l] })
    (l := (List.finRange 25).take v.outLanes) (init := []) fun _ _ => rfl
  rw [Engine.extract, hbuffer, ← List.flatMap_eq_foldl, extract_eq_flatMap]

/-- Settles O9: the loops of ABSORB, FINAL and SQUEEZE one after another; each writes the hidden state it reads. -/
theorem sequentialCommandsAgree : Obligations.SequentialCommandsAgree := by
  unfold Obligations.SequentialCommandsAgree
  intro v D e
  rw [Engine.extract_eq]
  refine ⟨?absorb, fun hD => ?final, rfl, rfl⟩
  case absorb => rw [Engine.absorb, Engine.keccakF_lanes, Engine.absorbXor_lanes]
  case final => rw [Engine.final, Engine.pad_eq hD, Engine.keccakF_lanes, Engine.absorbXor_lanes]

end Sys2Proof.Machine
end

section
/-! Absorbing a block twice (R112), and the capacity (R115). -/

namespace Sys2Proof.Machine

/-- Settles O15: lane by lane, XOR undoes itself in the rate, and the capacity is not written. -/
theorem absorbXorTwiceRestores : Obligations.AbsorbXorTwiceRestores := by
  unfold Obligations.AbsorbXorTwiceRestores
  refine fun v A P => ⟨lanes_ext fun l => ?_, fun l hl => ?_⟩
  · rw [absorbXor_lane, absorbXor_lane]
    split
    · rw [BitVec.xor_assoc, BitVec.xor_self, BitVec.xor_zero]
    · rfl
  · rw [absorbXor_lane, if_neg (Nat.not_lt.mpr hl)]

end Sys2Proof.Machine
end
